-- ==== Sys2Proof/Word.lean ====
section
/-! DEFINITION. The bit patterns of the block: bytes, bus words and 256-bit register patterns
(spec/00_scope.md R5, R11; spec/20_memory.md R54). -/

namespace Sys2Proof

/-- One byte lane of a bus word (R58). -/
abbrev Byte := BitVec 8

/-- One 32-bit bus word, also a command word (R54, R80). -/
abbrev Word := BitVec 32

/-- The pattern held by a 256-bit register (R5, R11, R21). -/
abbrev Wide := BitVec 256

end Sys2Proof
end

