-- ==== Sys2Proof/Syntax.lean ====
section
/-! DEFINITION. The six commands (spec/30_encoding.md R83, one constructor per row of
spec/opcode_table.json), the names of the register words (spec/10_state.md R20), the host's bus
transfers (spec/20_memory.md R52 to R55), and the statements and pseudo-instructions a host program is
written in (spec/30_encoding.md R86, R87). -/

namespace Sys2Proof

/-- The commands. No operand is encoded in a command word (R81), so no constructor has a field. -/
inductive Instr where
  | add    -- 0x01, R104
  | sub    -- 0x02, R105
  | mul    -- 0x03, R106
  | div    -- 0x04, R107
  | sqrt   -- 0x05, R135
  | solve  -- 0x06, R159
  deriving DecidableEq, Repr

/-- The words of the register map (R20); `opa k` is word `k` of OPA, and so on. -/
inductive RegName where
  | id
  | ctrl
  | cmd
  | status
  | scaleExp
  | iter
  | opa (k : Fin 8)
  | opb (k : Fin 8)
  | opc (k : Fin 8)
  | res (k : Fin 8)
  deriving DecidableEq, Repr

/-- What a bus transfer does at its address: read, or write a word (R52, R53). -/
inductive Access where
  | read
  | write (w : Word)
  deriving DecidableEq, Repr

/-- One transfer the host issues: the platform's byte address, the width in bits, and the access. The
block's interface has only aligned 32-bit transfers (R54); the others are representable here because
R55 says that they are refused. For a write of another width the data plays no part. -/
structure Transfer where
  addr   : Nat
  bits   : Nat
  access : Access
  deriving DecidableEq, Repr

/-- The two basic statements of a host program, each one transfer at an offset from BASE (R86). -/
inductive Stmt where
  | wr (off : Nat) (w : Word)
  | rd (off : Nat)
  deriving DecidableEq, Repr

/-- The registers that `ld256` and `ld128` may load (R87). -/
inductive OperandReg where
  | opa
  | opb
  | opc
  deriving DecidableEq, Repr

/-- The pseudo-instructions of R87. `wait` is the host's polling loop; `polls` is how many STATUS reads
the loop made, which depends on LATENCY (R219, log entry 13). -/
inductive Pseudo where
  | ld256 (r : OperandReg) (v : Int)
  | ld128 (r : OperandReg) (v : Int)
  | go (i : Instr)
  | wait (polls : Nat)
  | rd256
  | ack
  | run (i : Instr) (polls : Nat)
  deriving DecidableEq, Repr

end Sys2Proof
end

