-- ==== Sys2Proof/Decode.lean ====
section
/-! DEFINITION. Decoding and encoding of command words, format CMD32 (spec/30_encoding.md R80 to R85). -/

namespace Sys2Proof

/-- Why a command word is not one of the six commands (R84). Such a word is no stop: its command
completes with `IllegalCommand` (R182). -/
inductive DecodeError where
  /-- some bit of RSVD, bits [31:8], is 1 -/
  | reservedBits
  /-- RSVD is 0 and OPCODE is 0x00 or 0x07 to 0xFF -/
  | unknownOpcode
  deriving DecidableEq, Repr

/-- OPCODE, bits [7:0] (R80). -/
def opcodeField (w : Word) : BitVec 8 := w.extractLsb' 0 8

/-- RSVD, bits [31:8] (R80). -/
def rsvdField (w : Word) : BitVec 24 := w.extractLsb' 8 24

/-- The opcode map of R83. -/
def decodeOpcode (op : Nat) : Except DecodeError Instr :=
  match op with
  | 0x01 => .ok .add
  | 0x02 => .ok .sub
  | 0x03 => .ok .mul
  | 0x04 => .ok .div
  | 0x05 => .ok .sqrt
  | 0x06 => .ok .solve
  | _ => .error .unknownOpcode

/-- The command a word selects, or why it selects none (R82 to R85). -/
def decode (w : Word) : Except DecodeError Instr :=
  if rsvdField w = 0#24 then decodeOpcode (opcodeField w).toNat else .error .reservedBits

/-- `legal(w)` of R82, as the rule writes it. -/
def legal (w : Word) : Bool :=
  rsvdField w == 0#24 &&
    [0x01#8, 0x02#8, 0x03#8, 0x04#8, 0x05#8, 0x06#8].contains (opcodeField w)

/-- The full command word of R83. -/
def encode : Instr → Word
  | .add   => 0x00000001#32
  | .sub   => 0x00000002#32
  | .mul   => 0x00000003#32
  | .div   => 0x00000004#32
  | .sqrt  => 0x00000005#32
  | .solve => 0x00000006#32

/-- The command word made of the low `nbits` bits of `w`, every higher bit 0. -/
def tableWord (nbits w : Nat) : Word := BitVec.ofNat 32 (w % 2 ^ nbits)

/-- The host's question about one row of the opcode table: what the decoder reads from the bits `w`.
A command is one 32-bit word (R80), so more than 32 bits are no command. -/
def decodeTableWord (nbits w : Nat) : Option Instr :=
  if nbits ≤ 32 then
    match decode (tableWord nbits w) with
    | .ok i => some i
    | .error _ => none
  else none

end Sys2Proof
end

