-- ==== Sys2Proof/Config.lean ====
section
/-! DEFINITION. What the hardware fixes (spec/00_scope.md section 4) and the one value the spec leaves
to the platform, BASE. -/

namespace Sys2Proof.Config

/-- `SCALE = 10^27` (R3): fixed for this hardware, no host write changes it. -/
def scale : Int := 1000000000000000000000000000

/-- The least signed value of `DATA_WIDTH = 256` bits, `-2^255` (R5). -/
def minValue : Int := -(2 ^ 255)

/-- The greatest signed value of `DATA_WIDTH = 256` bits, `2^255 - 1` (R5). -/
def maxValue : Int := 2 ^ 255 - 1

/-- The constant the ID register reads as, the ASCII text "FXQ1" lowest byte first (R22). -/
def idValue : Word := 0x31515846#32

/-- `REG_SPACE`: the register space is 256 bytes (R50). -/
def regSpace : Nat := 256

/-- `ITER` saturates at `2^32 - 1` (R27). -/
def iterMax : Nat := 2 ^ 32 - 1

/-- `BASE`, the platform's byte address of offset 0x00 (R51, D8, U11). The spec leaves it OPEN, so it
has no body: nothing can be proved of its value. Log entry 4. -/
opaque base : Nat

end Sys2Proof.Config
end

