-- ==== Sys2Proof/Machine/State.lean ====
section
/-! DEFINITION. The state of the FXQ block (spec/10_state.md), the error kinds it reports
(spec/60_exceptions.md R180), the events that drive it (spec/20_memory.md R59, spec/70_reset_and_hazards.md
R210, R212), and the state after reset (R41). -/

namespace Sys2Proof.Machine

/-- The error kinds of R180, in the order of their codes. Each ends a command and is reported at its
completion; none of them stops the machine. -/
inductive ErrorKind where
  | negativeSquareRoot
  | divisionByZero
  | negativeDiscriminant
  | negativeRoot
  | overflow
  | illegalCommand
  deriving DecidableEq, Repr

/-- The outcome of a primitive or a command: a mathematical integer, or the error kind it raised (R7,
R183). -/
abbrev Result := Except ErrorKind Int

/-- What happens next around the block (R59, R210, R212). -/
inductive Event where
  /-- the host issues a transfer -/
  | host (t : Transfer)
  /-- the sequencer is given its turn; it takes `Complete` if BUSY = 1 (R184) -/
  | sequencer
  /-- the reset event (R210) -/
  | reset
  /-- the host issues a transfer while the reset input is asserted (R212) -/
  | hostInReset (t : Transfer)
  deriving DecidableEq, Repr

/-- The reasons the machine can stop with a fault: none. The spec treats no behaviour as stuck (93,
after U16), and every error is reported by a completion that leads to a next state (R184, R185). Log
entry 8. -/
inductive Fault where
  deriving DecidableEq, Repr

/-- The reasons a step is refused. -/
inductive Refusal where
  /-- Raised by an arm of `exec` that has no meaning yet; there is none in this model. Safe. -/
  | notModelled (mnemonic : String)
  /-- Raised by a host transfer whose width is not 32 bits (R55). Safe: the spec says to refuse it. -/
  | transferWidth (bits : Nat)
  /-- Raised by a 32-bit host transfer inside the register space that is not word-aligned (R55). Safe:
  the spec says to refuse it. -/
  | misalignedTransfer (off : Nat)
  /-- Raised by a 32-bit host transfer to an address outside BASE to BASE + 0xFF, whose aliasing is the
  platform's and no part of the spec (R51, U11). Safe: the model goes no further. -/
  | outsideRegisterSpace (addr : Nat)
  /-- Raised by a host transfer issued while the reset input is asserted (R212). Safe: the spec says to
  refuse it. -/
  | transferInReset (addr : Nat)
  deriving DecidableEq, Repr

/-- Everything the block holds (R20, R35), and two fields of the model's own: the events to come and the
words the host's reads returned. -/
structure State where
  /-- CTRL.IE (R23) -/
  ie       : Bool
  /-- STATUS.BUSY (R30) -/
  busy     : Bool
  /-- STATUS.DONE (R31) -/
  done     : Bool
  /-- STATUS.IGNORED (R33) -/
  ignored  : Bool
  /-- STATUS.ERRCODE (R34) -/
  errcode  : BitVec 4
  /-- SCALE_EXP (R26) -/
  scaleExp : BitVec 8
  /-- ITER (R27) -/
  iter     : Word
  /-- OPA (R21) -/
  opa      : Wide
  /-- OPB (R21) -/
  opb      : Wide
  /-- OPC (R21) -/
  opc      : Wide
  /-- RES (R28) -/
  res      : Wide
  /-- L_OP, the latched command word (R35) -/
  lOp      : Word
  /-- L_A (R35) -/
  lA       : Wide
  /-- L_B (R35) -/
  lB       : Wide
  /-- L_C (R35) -/
  lC       : Wide
  /-- The interleaving of host transfers, sequencer turns and resets still to come (R59): the model's
  own field, log entry 2. -/
  agenda   : List Event
  /-- The words the host's reads returned, oldest first (R86): the model's own field, log entry 3. -/
  received : List Word
  deriving DecidableEq, Repr

/-- The state after reset (R41, R210). The latches are unspecified there; zero is a DESIGN CHOICE (log
entry 1). Nothing is on the agenda and the host has read nothing (log entries 2, 3). -/
def State.reset : State where
  ie       := false
  busy     := false
  done     := false
  ignored  := false
  errcode  := 0#4
  scaleExp := 0#8
  iter     := 0#32
  opa      := 0#256
  opb      := 0#256
  opc      := 0#256
  res      := 0#256
  lOp      := 0#32
  lA       := 0#256
  lB       := 0#256
  lC       := 0#256
  agenda   := []
  received := []

end Sys2Proof.Machine
end

