-- ==== Sys2Proof/Machine/Flags.lean ====
section
/-! DEFINITION. The STATUS, CTRL, SCALE_EXP and ITER words, the error codes and the interrupt output
(spec/10_state.md R23, R25 to R27, R32; spec/60_exceptions.md R180, R190). -/

namespace Sys2Proof.Machine

/-- The ERRCODE value of an error kind (R180). -/
def ErrorKind.code : ErrorKind → BitVec 4
  | .negativeSquareRoot   => 1#4
  | .divisionByZero       => 2#4
  | .negativeDiscriminant => 3#4
  | .negativeRoot         => 4#4
  | .overflow             => 5#4
  | .illegalCommand       => 6#4

/-- What a completion writes to ERRCODE: 0 on success, the kind's code otherwise (R184). -/
def Result.errcode : Result → BitVec 4
  | .ok _ => 0#4
  | .error e => e.code

/-- What a completion writes to ITER: `min(n, 2^32 - 1)` (R27). -/
def iterWord (n : Nat) : Word := BitVec.ofNat 32 (min n Config.iterMax)

/-- STATUS.ERR, which reads as 1 exactly when ERRCODE ≠ 0 (R32). -/
def State.errFlag (s : State) : Bool := s.errcode != 0#4

/-- The STATUS word a read returns (R25). -/
def State.statusWord (s : State) : Word :=
  0#20 ++ s.errcode ++ 0#4 ++ BitVec.ofBool s.ignored ++ BitVec.ofBool s.errFlag
    ++ BitVec.ofBool s.done ++ BitVec.ofBool s.busy

/-- The CTRL word a read returns, `zext_32(IE)` (R23). -/
def State.ctrlWord (s : State) : Word := (BitVec.ofBool s.ie).setWidth 32

/-- The SCALE_EXP word a read returns (R26). -/
def State.scaleExpWord (s : State) : Word := s.scaleExp.setWidth 32

/-- A CTRL write: `IE <- w[0]` (R23). -/
def State.writeCtrl (s : State) (w : Word) : State := { s with ie := w[0] }

/-- A STATUS write: bit 1 clears DONE, bit 3 clears IGNORED, every other bit is ignored (R25). -/
def State.writeStatus (s : State) (w : Word) : State :=
  { s with done := s.done && !w[1], ignored := s.ignored && !w[3] }

/-- A SCALE_EXP write: `SCALE_EXP <- w[7:0]` (R26). -/
def State.writeScaleExp (s : State) (w : Word) : State := { s with scaleExp := w.setWidth 8 }

/-- The level interrupt output, `irq = CTRL.IE ∧ STATUS.DONE` (R37, R190). -/
def State.irq (s : State) : Bool := s.ie && s.done

end Sys2Proof.Machine
end

