-- ==== Sys2Proof/Machine/Operands.lean ====
section
/-! DEFINITION. How patterns are read as integers and written back, how a 256-bit register is split into
words, and the operands each command takes from the latches (spec/00_scope.md R10, R11;
spec/20_memory.md R58; spec/30_encoding.md R81). -/

namespace Sys2Proof.Machine

/-- `val(R) = sext_256(R)` (R11). -/
def val (r : Wide) : Int := r.toInt

/-- `enc(v)`, the pattern `v[255:0]` (R11). -/
def enc (v : Int) : Wide := BitVec.ofInt 256 v

/-- `wrap128(v) = sext_128(v[127:0])` (R10). -/
def wrap128 (v : Int) : Int := (BitVec.ofInt 128 v).toInt

/-- Word `k` of a 256-bit register, bits `[32k+31:32k]` (R11, R58). -/
def getWord (r : Wide) (k : Nat) : Word := r.extractLsb' (32 * k) 32

/-- `R[32k+31:32k] <- w`: only the addressed word changes (R21, R53). -/
def setWord (r : Wide) (k : Nat) (w : Word) : Wide :=
  (r &&& ~~~((BitVec.allOnes 32).setWidth 256 <<< (32 * k))) ||| (w.setWidth 256 <<< (32 * k))

/-- `x = val(L_A)`, the first operand of ADD, SUB, MUL, DIV and the `value` of SQRT (R81). -/
def State.operandX (s : State) : Int := val s.lA

/-- `y = val(L_B)`, the second operand of ADD, SUB, MUL and DIV (R81). -/
def State.operandY (s : State) : Int := val s.lB

/-- SOLVE's `a = wrap128(val(L_A))` (R81, R150). -/
def State.coefA (s : State) : Int := wrap128 (val s.lA)

/-- SOLVE's `b = wrap128(val(L_B))` (R81, R150). -/
def State.coefB (s : State) : Int := wrap128 (val s.lB)

/-- SOLVE's `c = wrap128(val(L_C))` (R81, R150). -/
def State.coefC (s : State) : Int := wrap128 (val s.lC)

end Sys2Proof.Machine
end

