-- ==== Sys2Proof/WellFormed.lean ====
section
/-! DEFINITION. Which terms are well formed: every command (it has no operand, spec/30_encoding.md
R81), the transfers inside the block's interface (spec/20_memory.md R52 to R55), and the statements and
pseudo-instructions whose operands are in range (spec/30_encoding.md R86, R87). -/

namespace Sys2Proof

/-- Every command is well formed: there is no operand to check (R81). -/
def Instr.wf : Instr → Bool
  | .add => true
  | .sub => true
  | .mul => true
  | .div => true
  | .sqrt => true
  | .solve => true

/-- A transfer inside the interface: 32 bits wide, in the register space, word-aligned (R52 to R55). -/
def Transfer.wf (t : Transfer) : Bool :=
  t.bits == 32 && decide (Config.base ≤ t.addr) && decide (t.addr < Config.base + Config.regSpace)
    && (t.addr - Config.base) % 4 == 0

/-- An offset a statement may name: word-aligned and at most 0xFC (R52, R53). -/
def offsetWf (off : Nat) : Bool :=
  off % 4 == 0 && decide (off ≤ 0xFC)

/-- A statement is one transfer at a well-formed offset (R86). -/
def Stmt.wf : Stmt → Bool
  | .wr off _ => offsetWf off
  | .rd off => offsetWf off

/-- The range conditions of R87: `ld256` takes a signed 256-bit value, `ld128` a signed 128-bit value,
and a `wait` makes at least one STATUS read. -/
def Pseudo.wf : Pseudo → Bool
  | .ld256 _ v => decide (-(2 ^ 255) ≤ v) && decide (v < 2 ^ 255)
  | .ld128 _ v => decide (-(2 ^ 127) ≤ v) && decide (v < 2 ^ 127)
  | .go i => i.wf
  | .wait polls => decide (1 ≤ polls)
  | .rd256 => true
  | .ack => true
  | .run i polls => i.wf && decide (1 ≤ polls)

end Sys2Proof
end

