-- ==== Sys2Proof/Machine/Ops.lean ====
section
/-! DEFINITION. The named operations of the block: the register map and the two bus transfers
(spec/20_memory.md R50 to R58), command start (spec/10_state.md R24), completion, which is also how an
error is taken (spec/60_exceptions.md R183 to R185), and reset (spec/70_reset_and_hazards.md R210). -/

namespace Sys2Proof.Machine

/-- The offset of a register word from BASE (R20, R21, R28). -/
def regOffset : RegName → Nat
  | .id       => 0x00
  | .ctrl     => 0x04
  | .cmd      => 0x08
  | .status   => 0x0C
  | .scaleExp => 0x10
  | .iter     => 0x14
  | .opa k    => 0x20 + 4 * k.val
  | .opb k    => 0x40 + 4 * k.val
  | .opc k    => 0x60 + 4 * k.val
  | .res k    => 0x80 + 4 * k.val

/-- The register word at an offset of the register space; `none` at a reserved offset (R20, R29). -/
def regAt (off : Nat) : Option RegName :=
  let i := off / 4
  if i < 6 then
    match i with
    | 0 => some .id
    | 1 => some .ctrl
    | 2 => some .cmd
    | 3 => some .status
    | 4 => some .scaleExp
    | _ => some .iter
  else if i < 8 then none
  else if h : i < 16 then some (.opa ⟨i - 8, by omega⟩)
  else if h : i < 24 then some (.opb ⟨i - 16, by omega⟩)
  else if h : i < 32 then some (.opc ⟨i - 24, by omega⟩)
  else if h : i < 40 then some (.res ⟨i - 32, by omega⟩)
  else none

/-- What a read of a register word returns (R22 to R28); a reserved offset reads 0 (R29). -/
def State.readReg (s : State) : Option RegName → Word
  | none            => 0#32
  | some .id        => Config.idValue
  | some .ctrl      => s.ctrlWord
  | some .cmd       => 0#32
  | some .status    => s.statusWord
  | some .scaleExp  => s.scaleExpWord
  | some .iter      => s.iter
  | some (.opa k)   => getWord s.opa k.val
  | some (.opb k)   => getWord s.opb k.val
  | some (.opc k)   => getWord s.opc k.val
  | some (.res k)   => getWord s.res k.val

/-- `BusRead(off)`: the word at a word-aligned offset (R52). -/
def State.readWord (s : State) (off : Nat) : Word := s.readReg (regAt off)

/-- The byte at a byte offset of the register space, byte lane `off mod 4` of its word (R58). -/
def State.byteAt (s : State) (off : Nat) : Byte :=
  (s.readWord (off - off % 4)).extractLsb' (8 * (off % 4)) 8

/-- Command start: the latches are loaded, BUSY <- 1, DONE <- 0, ERRCODE <- 0 (R24, R35). R59's third fact,
read literally, would keep ERRCODE until the next completion; that R24, R34, R181, R187 and R215 win there is
the model's choice (DEDUCED, log entry 21). -/
def State.start (s : State) (w : Word) : State :=
  { s with
    lOp := w, lA := s.opa, lB := s.opb, lC := s.opc
    busy := true, done := false, errcode := 0#4 }

/-- A CMD write: a start when idle; while BUSY = 1 it only sets IGNORED (R24, R33). -/
def State.writeCmd (s : State) (w : Word) : State :=
  if s.busy then { s with ignored := true } else s.start w

/-- What a write to a register word does (R53); ID, ITER, RES and reserved offsets ignore it (R22, R27,
R28, R29). -/
def State.writeReg (s : State) (w : Word) : Option RegName → State
  | none            => s
  | some .id        => s
  | some .ctrl      => s.writeCtrl w
  | some .cmd       => s.writeCmd w
  | some .status    => s.writeStatus w
  | some .scaleExp  => s.writeScaleExp w
  | some .iter      => s
  | some (.opa k)   => { s with opa := setWord s.opa k.val w }
  | some (.opb k)   => { s with opb := setWord s.opb k.val w }
  | some (.opc k)   => { s with opc := setWord s.opc k.val w }
  | some (.res _)   => s

/-- `BusWrite(off, w)` at a word-aligned offset (R53). -/
def State.writeWord (s : State) (off : Nat) (w : Word) : State := s.writeReg w (regAt off)

/-- What a completion writes to RES: the encoded result, or 0 on any error (R28, R184). -/
def Result.resWord : Result → Wide
  | .ok v => enc v
  | .error _ => 0#256

/-- The one indivisible update of `Complete` (R60, R184), for a success and for an error alike: it is
the block's whole taking of an exception (R185). -/
def State.finish (s : State) (r : Result) (n : Nat) : State :=
  { s with
    res := Result.resWord r, errcode := Result.errcode r, iter := iterWord n
    busy := false, done := true }

/-- Completion of a command whose latched word is not legal (R84, R182). -/
def State.finishIllegal (s : State) : State := s.finish (.error .illegalCommand) 0

/-- The reset event (R210): every register takes its reset value and a running command is abandoned. The
events still to come and the words the host already holds are outside the block (log entry 6). -/
def State.resetEvent (s : State) : State :=
  { State.reset with agenda := s.agenda, received := s.received }

/-- The offset from BASE of a platform address inside the register space (R50, R51). -/
def offsetOf (addr : Nat) : Option Nat :=
  if Config.base ≤ addr ∧ addr < Config.base + Config.regSpace then some (addr - Config.base) else none

/-- One transfer of the host at a word of the block: the whole word in one step (R52 to R54). -/
def State.access (s : State) (off : Nat) : Access → State
  | .read => { s with received := s.received ++ [s.readWord off] }
  | .write w => s.writeWord off w

/-- One transfer of the host. A width other than 32 bits, a misaligned offset and an address outside the
block are refused (R51, R55). -/
def State.transfer (s : State) (t : Transfer) : Host.Outcome State Fault Refusal :=
  if t.bits = 32 then
    match offsetOf t.addr with
    | some off =>
      if off % 4 = 0 then .next (s.access off t.access) else .refused (.misalignedTransfer off)
    | none => .refused (.outsideRegisterSpace t.addr)
  else .refused (.transferWidth t.bits)

/-- The agenda that gives the very next step to the sequencer: an empty one does so already. -/
def sequencerNext : List Event → List Event
  | [] => []
  | e :: rest => .sequencer :: e :: rest

/-- The command word made of the low `nbits` bits of `w`, started as a CMD write starts it (R24), with the
sequencer the next to move (log entry 12). -/
def State.loadCommand (s : State) (nbits w : Nat) : State :=
  { s.start (tableWord nbits w) with agenda := sequencerNext s.agenda }

end Sys2Proof.Machine
end

