-- ==== Sys2Proof/Machine/Primitives.lean ====
section
/-! DEFINITION. The primitives `add`, `sub`, `mul`, `div`, `sqrt` and the evaluator `solve` as functions on
mathematical integers (spec/00_scope.md R7 to R9; spec/40_arith.md; spec/41_sqrt.md; spec/42_solve.md). -/

namespace Sys2Proof.Machine

/-- The quotient of `n` by `d` truncated toward zero, from the quotient of the magnitudes (R8). -/
def tdiv (n d : Int) : Int :=
  let q : Int := (n.natAbs / d.natAbs : Nat)
  if (0 ≤ n ↔ 0 < d) then q else -q

/-- `chk`: `Overflow` outside the signed 256-bit range (R9). -/
def chk (v : Int) : Result :=
  if Config.minValue ≤ v ∧ v ≤ Config.maxValue then .ok v else .error .overflow

/-- `add(x, y)` (R100). -/
def add (x y : Int) : Result := chk (x + y)

/-- `sub(x, y)` (R101). -/
def sub (x y : Int) : Result := chk (x - y)

/-- `mul(x, y)`: the exact product over SCALE (R102). -/
def mul (x y : Int) : Result := chk (tdiv (x * y) Config.scale)

/-- `div(x, y)`: the zero test comes before the range check (R103). -/
def div (x y : Int) : Result :=
  if y = 0 then .error .divisionByZero else chk (tdiv (x * Config.scale) y)

/-- The seed `x₀ = fdiv(value, 2) + 1`, a raw halving (R131). -/
def seed (value : Int) : Int := value / 2 + 1

/-- One Newton step `N(x)`, its four primitive calls in order (R132). -/
def newtonStep (value x : Int) : Result :=
  match mul x x with
  | .error e => .error e
  | .ok p =>
    match add p value with
    | .error e => .error e
    | .ok q =>
      match mul (2 * Config.scale) x with
      | .error e => .error e
      | .ok d => div q d

/-- The loop of R133 from the estimate `x` after `n` steps: the first new estimate that is not smaller
ends it, and the estimate before it is returned. The estimates strictly fall while the loop goes on, so
`x.toNat` units of fuel are never used up (R136, log entry 9); the count includes a step that raises
(R134). -/
def newtonLoop (value : Int) : Nat → Int → Nat → Result × Nat
  | 0, x, n => (.ok x, n)
  | fuel + 1, x, n =>
    match newtonStep value x with
    | .error e => (.error e, n + 1)
    | .ok x' => if x ≤ x' then (.ok x, n + 1) else newtonLoop value fuel x' (n + 1)

/-- `sqrt(value)` with its Newton step count (R130 to R134). The first step is always taken. -/
def sqrt (value : Int) : Result × Nat :=
  if value < 0 then (.error .negativeSquareRoot, 0)
  else if value = 0 then (.ok 0, 0)
  else
    match newtonStep value (seed value) with
    | .error e => (.error e, 1)
    | .ok x => newtonLoop value x.toNat x 1

/-- SOLVE step 1: `b² − 4ac` in scaled arithmetic (R151, R152). -/
def discriminant (a b c : Int) : Result :=
  match mul b b with
  | .error e => .error e
  | .ok bSquared =>
    match mul a c with
    | .error e => .error e
    | .ok ac =>
      match mul (4 * Config.scale) ac with
      | .error e => .error e
      | .ok ac4 => sub bSquared ac4

/-- SOLVE steps 4 to 8: both roots, the larger one, and its sign test (R155 to R158). -/
def largerRoot (a b sqrtDisc : Int) : Result :=
  let twoA := 2 * a
  let negB := -b
  match sub negB sqrtDisc with
  | .error e => .error e
  | .ok t1 =>
    match div t1 twoA with
    | .error e => .error e
    | .ok root1 =>
      match add negB sqrtDisc with
      | .error e => .error e
      | .ok t2 =>
        match div t2 twoA with
        | .error e => .error e
        | .ok root2 =>
          let root := max root1 root2
          if root < 0 then .error .negativeRoot else .ok root

/-- `solve(a, b, c)` with the step count of its square root, 0 if none was taken (R150 to R158, R159). -/
def solve (a b c : Int) : Result × Nat :=
  match discriminant a b c with
  | .error e => (.error e, 0)
  | .ok disc =>
    if disc < 0 then (.error .negativeDiscriminant, 0)
    else
      match sqrt disc with
      | (.error e, n) => (.error e, n)
      | (.ok sqrtDisc, n) => (largerRoot a b sqrtDisc, n)

end Sys2Proof.Machine
end

