-- ==== Sys2Proof/Machine/Arith.lean ====
section
/-! DEFINITION. The meanings of ADD, SUB, MUL and DIV: the completion of each command, from the latches
alone (spec/40_arith.md R104 to R107; spec/60_exceptions.md R184). -/

namespace Sys2Proof.Machine

/-- ADD (R104). -/
def execAdd (s : State) : Host.Outcome State Fault Refusal :=
  .next (s.finish (add s.operandX s.operandY) 0)

/-- SUB (R105). -/
def execSub (s : State) : Host.Outcome State Fault Refusal :=
  .next (s.finish (sub s.operandX s.operandY) 0)

/-- MUL (R106). -/
def execMul (s : State) : Host.Outcome State Fault Refusal :=
  .next (s.finish (mul s.operandX s.operandY) 0)

/-- DIV (R107). -/
def execDiv (s : State) : Host.Outcome State Fault Refusal :=
  .next (s.finish (div s.operandX s.operandY) 0)

end Sys2Proof.Machine
end

