-- ==== Sys2Proof/Machine/Newton.lean ====
section
/-! DEFINITION. The meaning of SQRT: its completion, with ITER the Newton steps started (spec/41_sqrt.md
R134, R135; spec/60_exceptions.md R184). -/

namespace Sys2Proof.Machine

/-- SQRT (R135). -/
def execSqrt (s : State) : Host.Outcome State Fault Refusal :=
  .next (s.finish (sqrt s.operandX).1 (sqrt s.operandX).2)

end Sys2Proof.Machine
end

