-- ==== Sys2Proof/Machine/Quadratic.lean ====
section
/-! DEFINITION. The meaning of SOLVE: its completion, on the coefficients wrapped to 128 bits
(spec/42_solve.md R150, R159; spec/60_exceptions.md R184). -/

namespace Sys2Proof.Machine

/-- SOLVE (R159). -/
def execSolve (s : State) : Host.Outcome State Fault Refusal :=
  .next (s.finish (solve s.coefA s.coefB s.coefC).1 (solve s.coefA s.coefB s.coefC).2)

end Sys2Proof.Machine
end

