-- ==== Sys2Proof/Machine/Sequencer.lean ====
section
/-! DEFINITION. The sequencer's step `Complete` (spec/60_exceptions.md R184) and what each event around the
block does (spec/20_memory.md R59; spec/70_reset_and_hazards.md R210, R212). -/

namespace Sys2Proof.Machine

/-- `Complete` (R184): the latched word is decoded, and its command or `IllegalCommand` completes. -/
def State.complete (s : State) : Host.Outcome State Fault Refusal :=
  match decode s.lOp with
  | .ok i => exec i s
  | .error _ => .next s.finishIllegal

/-- The sequencer's turn: `Complete` is enabled exactly when BUSY = 1 (R184); otherwise the block holds
all registers (R198). -/
def State.sequencerTurn (s : State) : Host.Outcome State Fault Refusal :=
  if s.busy then s.complete else .next s

/-- What one event does. -/
def State.handle (s : State) : Event → Host.Outcome State Fault Refusal
  | .host t => s.transfer t
  | .sequencer => s.sequencerTurn
  | .reset => .next s.resetEvent
  | .hostInReset t => .refused (.transferInReset t.addr)

/-- The next event takes effect and is used up; with nothing more to come the sequencer has its turn
(R59, R220, log entry 2). -/
def State.advance (s : State) : Host.Outcome State Fault Refusal :=
  match s.agenda with
  | [] => s.sequencerTurn
  | e :: rest => State.handle { s with agenda := rest } e

end Sys2Proof.Machine
end

