-- ==== Sys2Proof/Machine/Step.lean ====
section
/-! DEFINITION. One step of the machine, and the state in which a given command runs next. -/

namespace Sys2Proof.Machine

/-- One step: the next event of the agenda (spec/20_memory.md R59), or with an empty agenda the
sequencer's turn (spec/70_reset_and_hazards.md R220). -/
def step (s : State) : Host.Outcome State Fault Refusal := s.advance

/-- `s` with the command of those bits latched and BUSY, so that the very next step completes it (log
entry 12). -/
def State.withFetchWord (s : State) (nbits w : Nat) : State := s.loadCommand nbits w

end Sys2Proof.Machine
end

