-- ==== Sys2Proof/Machine/Assembler.lean ====
section
/-! DEFINITION. Host programs as sequences of bus transfers: statements, their listing form, and the
expansions of the pseudo-instructions (spec/30_encoding.md R86, R87). The host's own control flow is not
the block's (log entry 13). -/

namespace Sys2Proof.Machine

/-- The transfer a statement issues (R86). -/
def stmtTransfer : Stmt → Transfer
  | .wr off w => { addr := Config.base + off, bits := 32, access := .write w }
  | .rd off   => { addr := Config.base + off, bits := 32, access := .read }

/-- `wr` to a register by its name (R86). -/
def wrReg (r : RegName) (w : Word) : Stmt := .wr (regOffset r) w

/-- `rd` of a register by its name (R86). -/
def rdReg (r : RegName) : Stmt := .rd (regOffset r)

/-- Word `k` of an operand register, by name (R86). -/
def operandWord : OperandReg → Fin 8 → RegName
  | .opa, k => .opa k
  | .opb, k => .opb k
  | .opc, k => .opc k

/-- `ld256 R, v`: the eight words of `enc(v)`, word 0 first (R87). -/
def load256 (r : OperandReg) (v : Int) : List Stmt :=
  (List.finRange 8).map fun k => wrReg (operandWord r k) (getWord (enc v) k.val)

/-- `go M`: the command word to CMD (R87). -/
def goCommand (i : Instr) : Stmt := wrReg .cmd (encode i)

/-- `wait`: the STATUS reads the polling loop made (R87). -/
def pollStatus (polls : Nat) : List Stmt := List.replicate polls (rdReg .status)

/-- The exact expansion of a pseudo-instruction (R87). -/
def expand : Pseudo → List Stmt
  | .ld256 r v   => load256 r v
  | .ld128 r v   => load256 r v
  | .go i        => [goCommand i]
  | .wait polls  => pollStatus polls
  | .rd256       => (List.finRange 8).map fun k => rdReg (.res k)
  | .ack         => [wrReg .status 0x0000000A#32]
  | .run i polls => goCommand i :: pollStatus polls

/-- The value `rd256` gives the host from the eight words it read, word 0 first:
`sext_256` of their concatenation (R87). -/
def wideOfWords (ws : List Word) : Wide :=
  (ws.zipIdx).foldl (fun r wk => setWord r wk.2 wk.1) 0#256

/-- `rd256 RES -> v`: the value of the eight words read (R87). -/
def rd256Value (ws : List Word) : Int := val (wideOfWords ws)

/-- The events of a host program's statements, issued in order. -/
def stmtEvents (p : List Stmt) : List Event := p.map fun st => .host (stmtTransfer st)

/-- One upper-case hexadecimal digit. -/
def hexDigit (d : Nat) : Char := (["0", "1", "2", "3", "4", "5", "6", "7", "8", "9", "A", "B", "C", "D",
  "E", "F"].getD d "?").toList.headD '?'

/-- The `digits` low hexadecimal digits of `n`, most significant first. -/
def hexDigits : Nat → Nat → List Char
  | 0, _ => []
  | digits + 1, n => hexDigits digits (n / 16) ++ [hexDigit (n % 16)]

/-- The encoding of a statement in listings, `W OFF WORD` or `R OFF` (R86). -/
def listing : Stmt → String
  | .wr off w => String.ofList ("W 0x".toList ++ hexDigits 2 off ++ " 0x".toList ++ hexDigits 8 w.toNat)
  | .rd off   => String.ofList ("R 0x".toList ++ hexDigits 2 off)

end Sys2Proof.Machine
end

