-- ==== Sys2Proof/Safety.lean ====
section
/-! DEFINITION. What the statements call a legal state, an honest report and an acceptable agenda. -/

namespace Sys2Proof.Machine

/-- The register invariant: BUSY and DONE are never both 1 (R25), ERRCODE is one of the codes 0 to 6
(R34, R180), ERRCODE reads 0 while a command runs (R181), and after an error RES is 0 (R28, R183). -/
def State.registersLegal (s : State) : Prop :=
  ¬ (s.busy = true ∧ s.done = true) ∧ s.errcode.toNat ≤ 6 ∧ (s.busy = true → s.errcode = 0#4)
    ∧ (s.errcode ≠ 0#4 → s.res = 0#256)

/-- The pure function of R184 from the latches: the outcome of the latched command and its Newton step
count, written as the rule writes it. -/
def State.latchedOutcome (s : State) : Result × Nat :=
  if legal s.lOp = false then (.error .illegalCommand, 0)
  else
    match (opcodeField s.lOp).toNat with
    | 0x01 => (add (val s.lA) (val s.lB), 0)
    | 0x02 => (sub (val s.lA) (val s.lB), 0)
    | 0x03 => (mul (val s.lA) (val s.lB), 0)
    | 0x04 => (div (val s.lA) (val s.lB), 0)
    | 0x05 => sqrt (val s.lA)
    | 0x06 => solve (wrap128 (val s.lA)) (wrap128 (val s.lB)) (wrap128 (val s.lC))
    | _ => (.error .illegalCommand, 0)

/-- While DONE = 1, RES, ITER and ERRCODE are those of the latched command (R59, R184). -/
def State.reportHonest (s : State) : Prop :=
  s.done = true →
    s.res = Result.resWord s.latchedOutcome.1 ∧ s.errcode = Result.errcode s.latchedOutcome.1
      ∧ s.iter = iterWord s.latchedOutcome.2

/-- An event the block's interface has: a well-formed transfer, a sequencer turn or a reset (R54, R55,
R212). -/
def Event.wf : Event → Bool
  | .host t => t.wf
  | .sequencer => true
  | .reset => true
  | .hostInReset _ => false

/-- Every event still to come is one the interface has. -/
def State.agendaWf (s : State) : Bool := s.agenda.all Event.wf

/-- The signed 256-bit range (R5). -/
def inRange (v : Int) : Prop := -(2 ^ 255) ≤ v ∧ v ≤ 2 ^ 255 - 1

/-- The signed 128-bit range of a SOLVE coefficient (R6, R150). -/
def coefRange (v : Int) : Prop := -(2 ^ 127) ≤ v ∧ v ≤ 2 ^ 127 - 1

/-- The greatest operand whose square root does not overflow (R140). -/
def sqrtMax : Int := 15217890079594884195896944943995857553442579439691879

/-- The state after a completion that writes these values to RES, ERRCODE and ITER: BUSY is cleared, DONE
is set, and everything else is as it was (R184). -/
def State.completed (s : State) (res : Wide) (code : BitVec 4) (iter : Word) : State :=
  { s with res := res, errcode := code, iter := iter, busy := false, done := true }

/-- The state after a command start with the word `w`: the latches are loaded, BUSY is set, DONE and
ERRCODE are cleared, and everything else is as it was (R24). -/
def State.started (s : State) (w : Word) : State :=
  { s with lOp := w, lA := s.opa, lB := s.opb, lC := s.opc, busy := true, done := false, errcode := 0#4 }

/-- The loop of R133 as a relation: from the estimate `x` after `n` steps it ends with the outcome `r` and
the step count `m`. A step that raises is counted (R134). -/
inductive NewtonRun (value : Int) : Int → Nat → Result → Nat → Prop where
  | raised {x : Int} {n : Nat} {e : ErrorKind} :
      newtonStep value x = .error e → NewtonRun value x n (.error e) (n + 1)
  | stopped {x x' : Int} {n : Nat} :
      newtonStep value x = .ok x' → x ≤ x' → NewtonRun value x n (.ok x) (n + 1)
  | continued {x x' : Int} {n : Nat} {r : Result} {m : Nat} :
      newtonStep value x = .ok x' → x' < x → NewtonRun value x' (n + 1) r m → NewtonRun value x n r m

/-- The sequencer is the next agent to move: its turn is the first event, or nothing else is to come (the
interleaving of R59 as the model holds it, log entry 2). -/
def State.sequencerMoves (s : State) : Prop :=
  s.agenda = [] ∨ ∃ rest, s.agenda = .sequencer :: rest

/-- `s` with its first event used up. -/
def State.eventTaken (s : State) : State := { s with agenda := s.agenda.tail }

/-- The event that reads the word at an offset (R52, R86). -/
def busRead (off : Nat) : Event := .host (stmtTransfer (.rd off))

/-- The event that writes the word `w` at an offset (R53, R86). -/
def busWrite (off : Nat) (w : Word) : Event := .host (stmtTransfer (.wr off w))

end Sys2Proof.Machine
end

