-- ==== Sys2Proof/Certificates/Slice0/Obligations.lean ====
section
/-! DEFINITION. The statements about the FXQ block, from the numbered rules of spec/. -/

open Sys2Proof Sys2Proof.Machine

/-! ## Command words -/

/-- The six full command words (30_encoding.md section 3). -/
def Obligations.DecodeReadsOpcodeMap : Prop :=
  decode 0x00000001#32 = .ok .add ∧ decode 0x00000002#32 = .ok .sub ∧
  decode 0x00000003#32 = .ok .mul ∧ decode 0x00000004#32 = .ok .div ∧
  decode 0x00000005#32 = .ok .sqrt ∧ decode 0x00000006#32 = .ok .solve

/-- R82: `legal` is the rule's formula, and a word decodes to a command exactly when it is legal. -/
def Obligations.DecodeAcceptsExactlyLegalWords : Prop :=
  ∀ w : Word,
    (legal w = true ↔ w.extractLsb' 8 24 = 0#24 ∧
      (w.extractLsb' 0 8).toNat ∈ [0x01, 0x02, 0x03, 0x04, 0x05, 0x06]) ∧
    ((∃ i, decode w = .ok i) ↔ legal w = true)

/-- Decode and encode agree in both directions, so no bit of a command word is dropped (R80, R83). -/
def Obligations.DecodeEncodeRoundTrip : Prop :=
  (∀ i : Instr, i.wf = true → decode (encode i) = .ok i) ∧
  (∀ (w : Word) (i : Instr), decode w = .ok i → encode i = w)

/-! ## Bus transfers and the register file -/

/-- R52: one read transfer at an aligned offset returns the register's word and changes nothing else. -/
def Obligations.ReadTransferReturnsRegisterWord : Prop :=
  ∀ (s : State) (off : Nat) (rest : List Event),
    off % 4 = 0 → off ≤ 0xFC → s.agenda = busRead off :: rest →
    ∃ v : Word,
      step s = .next { s with agenda := rest, received := s.received ++ [v] } ∧
      (off = 0x00 → v = 0x31515846#32) ∧
      (off = 0x04 → v = 0#31 ++ BitVec.ofBool s.ie) ∧
      (off = 0x08 → v = 0#32) ∧
      (off = 0x0C → v = 0#20 ++ s.errcode ++ 0#4 ++ BitVec.ofBool s.ignored ++
        BitVec.ofBool (decide (s.errcode ≠ 0#4)) ++ BitVec.ofBool s.done ++ BitVec.ofBool s.busy) ∧
      (off = 0x10 → v = 0#24 ++ s.scaleExp) ∧
      (off = 0x14 → v = s.iter) ∧
      (0x18 ≤ off ∧ off ≤ 0x1C → v = 0#32) ∧
      (0x20 ≤ off ∧ off ≤ 0x3C → v = s.opa.extractLsb' (8 * (off - 0x20)) 32) ∧
      (0x40 ≤ off ∧ off ≤ 0x5C → v = s.opb.extractLsb' (8 * (off - 0x40)) 32) ∧
      (0x60 ≤ off ∧ off ≤ 0x7C → v = s.opc.extractLsb' (8 * (off - 0x60)) 32) ∧
      (0x80 ≤ off ∧ off ≤ 0x9C → v = s.res.extractLsb' (8 * (off - 0x80)) 32) ∧
      (0xA0 ≤ off → v = 0#32)

/-- `r` is `old` with only the 32-bit word at bit `lo` replaced by `w`. -/
def replacesWord (old r : Wide) (lo : Nat) (w : Word) : Prop :=
  r.extractLsb' lo 32 = w ∧
  ∀ i : Nat, ¬ (lo ≤ i ∧ i < lo + 32) → r.getLsbD i = old.getLsbD i

/-- R53: what one write transfer does at every aligned offset, everything else unchanged. -/
def Obligations.WriteTransferEffect : Prop :=
  ∀ (s : State) (off : Nat) (w : Word) (rest : List Event),
    off % 4 = 0 → off ≤ 0xFC → s.agenda = busWrite off w :: rest →
    (off = 0x04 → step s = .next { s with agenda := rest, ie := w[0] }) ∧
    (off = 0x08 → s.busy = false → step s = .next (State.started { s with agenda := rest } w)) ∧
    (off = 0x08 → s.busy = true → step s = .next { s with agenda := rest, ignored := true }) ∧
    (off = 0x0C → step s = .next { s with
      agenda := rest
      done := if w[1] then false else s.done
      ignored := if w[3] then false else s.ignored }) ∧
    (off = 0x10 → step s = .next { s with agenda := rest, scaleExp := w.extractLsb' 0 8 }) ∧
    (0x20 ≤ off ∧ off ≤ 0x3C → ∃ r, replacesWord s.opa r (8 * (off - 0x20)) w ∧
      step s = .next { s with agenda := rest, opa := r }) ∧
    (0x40 ≤ off ∧ off ≤ 0x5C → ∃ r, replacesWord s.opb r (8 * (off - 0x40)) w ∧
      step s = .next { s with agenda := rest, opb := r }) ∧
    (0x60 ≤ off ∧ off ≤ 0x7C → ∃ r, replacesWord s.opc r (8 * (off - 0x60)) w ∧
      step s = .next { s with agenda := rest, opc := r }) ∧
    (off = 0x00 ∨ (0x14 ≤ off ∧ off ≤ 0x1C) ∨ 0x80 ≤ off → step s = .next { s with agenda := rest })

/-- R29: a reserved offset reads 0 and ignores writes, without side effect. -/
def Obligations.ReservedOffsetsReadZeroIgnoreWrites : Prop :=
  ∀ (s : State) (off : Nat) (w : Word) (rest : List Event),
    off % 4 = 0 → (0x18 ≤ off ∧ off ≤ 0x1F) ∨ (0xA0 ≤ off ∧ off ≤ 0xFF) →
    (s.agenda = busRead off :: rest →
      step s = .next { s with agenda := rest, received := s.received ++ [0#32] }) ∧
    (s.agenda = busWrite off w :: rest → step s = .next { s with agenda := rest })

/-- R24: CMD reads 0; a CMD write starts the same way for every word while idle, and while BUSY = 1 only
sets IGNORED. ERRCODE <- 0 at the start is R24's own line; how R59 is read beside it is log entry 21. -/
def Obligations.CommandWriteStartsOrIsIgnored : Prop :=
  ∀ (s : State) (w : Word) (rest : List Event),
    (s.agenda = busRead 0x08 :: rest →
      step s = .next { s with agenda := rest, received := s.received ++ [0#32] }) ∧
    (s.agenda = busWrite 0x08 w :: rest → s.busy = false →
      step s = .next { s with
        agenda := rest, lOp := w, lA := s.opa, lB := s.opb, lC := s.opc
        busy := true, done := false, errcode := 0#4 }) ∧
    (s.agenda = busWrite 0x08 w :: rest → s.busy = true →
      step s = .next { s with agenda := rest, ignored := true })

/-- R55: a misaligned transfer, and one whose width is not 32 bits, is refused. -/
def Obligations.MalformedTransfersAreRefused : Prop :=
  ∀ (s : State) (t : Transfer) (rest : List Event),
    s.agenda = .host t :: rest →
    (t.bits ≠ 32 ∨ ∃ off, t.addr = Config.base + off ∧ off % 4 ≠ 0) →
    ∃ r, step s = .refused r

/-- A transfer issued while reset is asserted is refused, and reset itself is one step that leaves the later
events to come (70_reset_and_hazards.md section 1). That such a transfer is an event of its own is the
model's choice, log entry 7, and that a reset leaves the later events is log entry 6. -/
def Obligations.TransferWhileResetAssertedIsRefused : Prop :=
  ∀ (s : State) (t : Transfer) (rest : List Event),
    (s.agenda = .hostInReset t :: rest → ∃ r, step s = .refused r) ∧
    (s.agenda = .reset :: rest → ∃ u, step s = .next u ∧ u.agenda = rest)

/-- From any state whose coming events are all inside the block's interface, any number of steps runs
without a fault or a refusal (93_implementation_defined.md: nothing is stuck). It is over the agenda of log
entry 2, and that the sequencer's turn is a step also while BUSY = 0 is the model's choice, log entry 14, in
keeping with 60_exceptions.md section 6 (R198). -/
def Obligations.AcceptableAgendaNeverStops : Prop :=
  ∀ (k : Nat) (s : State), s.agendaWf = true → ∃ u, Sys2Proof.core.run k s = .next u ∧ u.agendaWf = true

/-- R58: byte lanes within a word and words within a 256-bit register are little-endian, with the rule's
example. -/
def Obligations.RegistersAreLittleEndianBytes : Prop :=
  (∀ (s : State) (off i : Nat), off % 4 = 0 → off ≤ 0xFC → i < 4 →
    s.byteAt (off + i) = (s.readWord off).extractLsb' (8 * i) 8) ∧
  (∀ (s : State) (i : Nat), i < 32 →
    s.byteAt (0x20 + i) = s.opa.extractLsb' (8 * i) 8 ∧
    s.byteAt (0x40 + i) = s.opb.extractLsb' (8 * i) 8 ∧
    s.byteAt (0x60 + i) = s.opc.extractLsb' (8 * i) 8 ∧
    s.byteAt (0x80 + i) = s.res.extractLsb' (8 * i) 8) ∧
  (∀ (s : State) (k : Nat), k < 8 →
    s.readWord (0x20 + 4 * k) = s.opa.extractLsb' (32 * k) 32 ∧
    s.readWord (0x40 + 4 * k) = s.opb.extractLsb' (32 * k) 32 ∧
    s.readWord (0x60 + 4 * k) = s.opc.extractLsb' (32 * k) 32 ∧
    s.readWord (0x80 + 4 * k) = s.res.extractLsb' (32 * k) 32) ∧
  (∀ s : State, s.opa.toInt = -3 * 10 ^ 27 →
    (List.range 8).map (fun k => s.readWord (0x20 + 4 * k)) =
      [0x48000000#32, 0x208E7F49#32, 0xF64E754A#32, 0xFFFFFFFF#32, 0xFFFFFFFF#32, 0xFFFFFFFF#32,
        0xFFFFFFFF#32, 0xFFFFFFFF#32])

/-- Every write but one to CMD is idempotent: doing it twice is doing it once (20_memory.md section 2,
R57). -/
def Obligations.WritesExceptCommandAreIdempotent : Prop :=
  ∀ (s : State) (off : Nat) (w : Word), off % 4 = 0 → off ≤ 0xFC → off ≠ 0x08 →
    (s.writeWord off w).writeWord off w = s.writeWord off w

/-! ## STATUS, the interrupt and reset -/

/-- R30: BUSY is set by a command start and cleared by a completion or a reset, and by nothing else. STATUS
reads show it, and a CMD write while it is 1 starts nothing. -/
def Obligations.BusyChangesOnlyByStartCompletionReset : Prop :=
  (∀ (s : State) (w : Word) (rest : List Event), s.agenda = busWrite 0x08 w :: rest → s.busy = false →
    ∃ u, step s = .next u ∧ u.busy = true) ∧
  (∀ s : State, s.busy = true → (s.sequencerMoves ∨ ∃ rest, s.agenda = .reset :: rest) →
    ∃ u, step s = .next u ∧ u.busy = false) ∧
  (∀ s u : State, step s = .next u → s.busy = false → u.busy = true →
    ∃ w rest, s.agenda = busWrite 0x08 w :: rest) ∧
  (∀ s u : State, step s = .next u → s.busy = true → u.busy = false →
    s.sequencerMoves ∨ ∃ rest, s.agenda = .reset :: rest) ∧
  (∀ s : State, (s.readWord 0x0C)[0] = s.busy) ∧
  (∀ (s : State) (w : Word) (rest : List Event), s.agenda = busWrite 0x08 w :: rest → s.busy = true →
    ∃ u, step s = .next u ∧ u.busy = true ∧ u.lOp = s.lOp)

/-- R31: DONE is set by every completion; it is cleared by a start, by a STATUS write with bit 1 set or by
reset, and changed by nothing else. -/
def Obligations.DoneChangesOnlyByItsEvents : Prop :=
  (∀ s : State, s.busy = true → s.sequencerMoves →
    ∃ u, step s = .next u ∧ u.done = true ∧ u.irq = s.ie) ∧
  (∀ (s : State) (w : Word) (rest : List Event),
    (s.agenda = busWrite 0x08 w :: rest ∧ s.busy = false) ∨
    (s.agenda = busWrite 0x0C w :: rest ∧ w[1] = true) ∨ s.agenda = .reset :: rest →
    ∃ u, step s = .next u ∧ u.done = false ∧ u.irq = false) ∧
  (∀ s u : State, step s = .next u → s.done ≠ u.done →
    (u.done = true ∧ s.busy = true ∧ s.sequencerMoves) ∨
    (u.done = false ∧ ((∃ w rest, s.agenda = busWrite 0x08 w :: rest ∧ s.busy = false) ∨
      (∃ w rest, s.agenda = busWrite 0x0C w :: rest ∧ w[1] = true) ∨
      ∃ rest, s.agenda = .reset :: rest)))

/-- R33: IGNORED is set by a CMD write while BUSY = 1, cleared only by a STATUS write with bit 3 set or by
reset, and not by a command start. -/
def Obligations.IgnoredIsSticky : Prop :=
  (∀ (s : State) (w : Word) (rest : List Event), s.agenda = busWrite 0x08 w :: rest → s.busy = true →
    ∃ u, step s = .next u ∧ u.ignored = true) ∧
  (∀ (s : State) (w : Word) (rest : List Event),
    (s.agenda = busWrite 0x0C w :: rest ∧ w[3] = true) ∨ s.agenda = .reset :: rest →
    ∃ u, step s = .next u ∧ u.ignored = false) ∧
  (∀ s u : State, step s = .next u → s.ignored = false → u.ignored = true →
    s.busy = true ∧ ∃ w rest, s.agenda = busWrite 0x08 w :: rest) ∧
  (∀ s u : State, step s = .next u → s.ignored = true → u.ignored = false →
    (∃ w rest, s.agenda = busWrite 0x0C w :: rest ∧ w[3] = true) ∨
    ∃ rest, s.agenda = .reset :: rest)

/-- What a completion reports stays: RES and ITER change only at a completion or a reset (10_state.md R27,
R28; R216), and ERRCODE only there and at the next start, which clears it (R34). This is R59's third fact as
the model holds it beside R24 (log entry 21). -/
def Obligations.ResultChangesOnlyAtCompletionOrReset : Prop :=
  ∀ s u : State, step s = .next u →
    ((u.res ≠ s.res ∨ u.iter ≠ s.iter) →
      (s.busy = true ∧ u.done = true ∧ s.sequencerMoves) ∨
      ∃ rest, s.agenda = .reset :: rest) ∧
    (u.errcode ≠ s.errcode →
      (s.busy = true ∧ u.done = true ∧ s.sequencerMoves) ∨
      (∃ rest, s.agenda = .reset :: rest) ∨
      (s.busy = false ∧ u.errcode = 0#4 ∧ ∃ w rest, s.agenda = busWrite 0x08 w :: rest))

/-- R190, R191: the interrupt is IE ∧ DONE. It follows IE after every completion, rises with IE while DONE
= 1, does not move for an ignored CMD write, and falls in each of its four ways. -/
def Obligations.InterruptFollowsEnableAndDone : Prop :=
  ∀ s : State, (s.irq = true ↔ s.ie = true ∧ s.done = true) ∧
    (s.busy = true → s.sequencerMoves → ∃ u, step s = .next u ∧ u.irq = s.ie) ∧
    (∀ (w : Word) (rest : List Event),
      (s.agenda = busWrite 0x04 w :: rest → w[0] = true → s.done = true →
        ∃ u, step s = .next u ∧ u.irq = true) ∧
      (s.agenda = busWrite 0x04 w :: rest → w[0] = false →
        ∃ u, step s = .next u ∧ u.irq = false ∧ u.done = s.done) ∧
      (s.agenda = busWrite 0x0C w :: rest → w[1] = true → ∃ u, step s = .next u ∧ u.irq = false) ∧
      (s.agenda = busWrite 0x08 w :: rest → s.busy = false → ∃ u, step s = .next u ∧ u.irq = false) ∧
      (s.agenda = busWrite 0x08 w :: rest → s.busy = true → ∃ u, step s = .next u ∧ u.irq = s.irq) ∧
      (s.agenda = .reset :: rest → ∃ u, step s = .next u ∧ u.irq = false))

/-- R210: reset gives every host-visible register its reset value in one step and abandons a running
command. The latches are not constrained: their values are the model's choice (log entry 1). -/
def Obligations.ResetEventClearsEveryRegister : Prop :=
  ∀ (s : State) (rest : List Event), s.agenda = .reset :: rest →
    ∃ u, step s = .next u ∧ u.readWord 0x00 = 0x31515846#32 ∧ u.ie = false ∧ u.busy = false ∧
      u.done = false ∧ u.ignored = false ∧ u.errcode = 0#4 ∧ u.scaleExp = 0#8 ∧ u.iter = 0#32 ∧
      u.opa = 0#256 ∧ u.opb = 0#256 ∧ u.opc = 0#256 ∧ u.res = 0#256 ∧ u.irq = false

/-- A reset takes nothing from the host: the events after it are still to come, and the words the host has
read stay with it. The model's choice, log entry 6; 70_reset_and_hazards.md section 1 lists the block's
registers only. -/
def Obligations.ResetLeavesTheHostAsItWas : Prop :=
  ∀ (s : State) (rest : List Event), s.agenda = .reset :: rest →
    ∃ u, step s = .next u ∧ u.agenda = rest ∧ u.received = s.received

/-- R41: the host-visible registers after reset; irq is 0. -/
def Obligations.ResetStateHasSpecifiedValues : Prop :=
  State.reset.readWord 0x00 = 0x31515846#32 ∧ State.reset.readWord 0x04 = 0#32 ∧
  State.reset.readWord 0x0C = 0#32 ∧ State.reset.readWord 0x10 = 0#32 ∧
  State.reset.readWord 0x14 = 0#32 ∧ State.reset.opa = 0#256 ∧ State.reset.opb = 0#256 ∧
  State.reset.opc = 0#256 ∧ State.reset.res = 0#256 ∧ State.reset.irq = false

/-- The register invariant is kept by every step: BUSY and DONE never both 1 (R25), ERRCODE at most 6
(R34), ERRCODE 0 while busy (R181, and for R59 beside it log entry 21), RES 0 after an error (R28). -/
def Obligations.StepKeepsRegistersLegal : Prop :=
  ∀ s u : State, s.registersLegal → step s = .next u → u.registersLegal

/-- Whenever DONE = 1, RES, ERRCODE and ITER are those of the latched command: kept by every step (R59,
R184). -/
def Obligations.StepKeepsReportHonest : Prop :=
  ∀ s u : State, s.reportHonest → step s = .next u → u.reportHonest

/-- Both invariants hold at reset. -/
def Obligations.ResetIsLegalAndHonest : Prop :=
  State.reset.registersLegal ∧ State.reset.reportHonest

/-! ## The sequencer -/

/-- A step runs the decoded command: when the latched word decodes to `i` and BUSY = 1, the sequencer's
step is `exec i`, and the step adds only that the event is used up (log entry 2). -/
def Obligations.StepRunsTheLatchedCommand : Prop :=
  ∀ (s : State) (i : Instr), s.busy = true → s.sequencerMoves → decode s.lOp = .ok i → i.wf = true →
    step s = exec i s.eventTaken

/-- A command word placed by `withFetchWord` is the very next thing to run, on the operand registers as they
are (the model's way to start a program, log entry 12). -/
def Obligations.FetchWordIsRunByTheNextStep : Prop :=
  ∀ (s : State) (i : Instr), i.wf = true →
    step (s.withFetchWord 32 (encode i).toNat) = exec i (s.started (encode i))

/-- `Complete` is the pure function of the latches written in one update, and runs exactly when BUSY = 1
(60_exceptions.md section 2). That the sequencer's turn with BUSY = 0 is a step that changes no register is
the model's choice, log entry 14, in keeping with 60_exceptions.md section 6 (R198). -/
def Obligations.CompletionIsTheLatchedOutcome : Prop :=
  ∀ s : State, s.sequencerMoves →
    (s.busy = true → step s = .next (s.eventTaken.completed (Result.resWord s.latchedOutcome.1)
        (Result.errcode s.latchedOutcome.1) (BitVec.ofNat 32 (min s.latchedOutcome.2 (2 ^ 32 - 1))))) ∧
    (s.busy = false → step s = .next s.eventTaken) ∧
    (∀ v : Int, Result.resWord (.ok v) = BitVec.ofInt 256 v ∧ Result.errcode (.ok v) = 0#4) ∧
    (∀ e : ErrorKind, Result.resWord (.error e) = 0#256 ∧ Result.errcode (.error e) = e.code)

/-- R180: the numeric code of every error kind. -/
def Obligations.ErrorKindsHaveTheirCodes : Prop :=
  ErrorKind.negativeSquareRoot.code = 1#4 ∧ ErrorKind.divisionByZero.code = 2#4 ∧
  ErrorKind.negativeDiscriminant.code = 3#4 ∧ ErrorKind.negativeRoot.code = 4#4 ∧
  ErrorKind.overflow.code = 5#4 ∧ ErrorKind.illegalCommand.code = 6#4

/-- R182: a command whose latched word is not legal completes with IllegalCommand, RES 0 and ITER 0. -/
def Obligations.IllegalWordCompletesWithIllegalCommand : Prop :=
  ∀ s : State, s.busy = true → s.sequencerMoves →
    ¬ (s.lOp.extractLsb' 8 24 = 0#24 ∧
      (s.lOp.extractLsb' 0 8).toNat ∈ [0x01, 0x02, 0x03, 0x04, 0x05, 0x06]) →
    step s = .next (s.eventTaken.completed 0#256 6#4 0#32)

/-- From a start to its completion, whatever the host transfers in between (operand writes and further
CMD writes among them), the outcome is the one of the word and operands at the start (20_memory.md section
4; over the agenda of log entry 2). -/
def Obligations.HostTransfersCannotChangeRunningCommand : Prop :=
  ∀ (s : State) (w : Word) (ts : List Transfer) (rest : List Event),
    s.busy = false → (∀ t ∈ ts, t.wf = true) →
    s.agenda = busWrite 0x08 w :: (ts.map Event.host ++ .sequencer :: rest) →
    ∃ u, Sys2Proof.core.run (ts.length + 2) s = .next u ∧ u.agenda = rest ∧ u.busy = false ∧
      u.done = true ∧
      u.res = Result.resWord (s.started w).latchedOutcome.1 ∧
      u.errcode = Result.errcode (s.started w).latchedOutcome.1 ∧
      u.iter = BitVec.ofNat 32 (min (s.started w).latchedOutcome.2 (2 ^ 32 - 1))

/-- A running command completes within as many steps as there are events to come, and one more, unless a
reset or a transfer outside the interface comes first (70_reset_and_hazards.md section 4, over the agenda
of log entry 2). -/
def Obligations.EveryStartedCommandCompletes : Prop :=
  ∀ s : State, s.busy = true → s.agendaWf = true → (Event.reset ∉ s.agenda) →
    ∃ k t u, k ≤ s.agenda.length ∧ Sys2Proof.core.run k s = .next t ∧ t.busy = true ∧
      t.lOp = s.lOp ∧ t.lA = s.lA ∧ t.lB = s.lB ∧ t.lC = s.lC ∧
      step t = .next u ∧ u.busy = false ∧ u.done = true

/-- R12: SCALE_EXP is host-writable and never changes SCALE or a result: a completion is the same whatever
it holds. -/
def Obligations.ScaleExponentHasNoEffect : Prop :=
  Config.scale = 10 ^ 27 ∧
  (∀ (s : State) (w : Word) (rest : List Event), s.agenda = busWrite 0x10 w :: rest →
    step s = .next { s with agenda := rest, scaleExp := w.extractLsb' 0 8 }) ∧
  ∀ (i : Instr) (s : State) (v : BitVec 8), ∃ u, exec i s = .next u ∧
    exec i { s with scaleExp := v } = .next { u with scaleExp := v }

/-! ## Scaled arithmetic -/

/-- R8: `tdiv` is the rule's formula, and its remainder is smaller than the divisor and is 0 or has the
sign of the dividend. Zero divisors are caught before it: by the test of `div`, and `mul` divides by SCALE. -/
def Obligations.TdivTruncatesTowardZero : Prop :=
  (∀ n d : Int, d ≠ 0 →
    tdiv n d = (if (0 ≤ n ↔ 0 < d) then 1 else -1) * (|n| / |d|) ∧
    |n - d * tdiv n d| < |d| ∧
    (n - d * tdiv n d = 0 ∨ (n - d * tdiv n d).sign = n.sign)) ∧
  (∀ x : Int, div x 0 = .error .divisionByZero) ∧ Config.scale ≠ 0

/-- R10: `wrap128` is congruent to its argument modulo 2^128 and lies in the signed 128-bit range. -/
def Obligations.Wrap128IsTwosComplementTruncation : Prop :=
  ∀ v : Int, wrap128 v = (BitVec.ofInt 128 v).toInt ∧ (2 : Int) ^ 128 ∣ wrap128 v - v ∧
    -(2 ^ 127) ≤ wrap128 v ∧ wrap128 v ≤ 2 ^ 127 - 1

/-- R11: `val` and `enc` are inverse on the range, and word `k` is bits `[32k+31:32k]`. -/
def Obligations.ValueAndPatternRoundTrip : Prop :=
  (∀ r : Wide, val r = r.toInt ∧ inRange (val r) ∧ enc (val r) = r) ∧
  (∀ v : Int, inRange v → val (enc v) = v) ∧
  (∀ (r : Wide) (k i : Nat), k < 8 → i < 32 → (getWord r k).getLsbD i = r.getLsbD (32 * k + i))

/-- R100, R104: ADD completes with the exact sum, or with Overflow outside the range. -/
def Obligations.AddCommandIsExactSum : Prop :=
  encode .add = 0x00000001#32 ∧
  (∀ x y : Int, (inRange (x + y) → add x y = .ok (x + y)) ∧
    (¬ inRange (x + y) → add x y = .error .overflow)) ∧
  ∀ s : State,
    (inRange (s.lA.toInt + s.lB.toInt) →
      exec .add s = .next (s.completed (BitVec.ofInt 256 (s.lA.toInt + s.lB.toInt)) 0#4 0#32)) ∧
    (¬ inRange (s.lA.toInt + s.lB.toInt) → exec .add s = .next (s.completed 0#256 5#4 0#32))

/-- R101, R105: SUB completes with the exact difference, or with Overflow outside the range. -/
def Obligations.SubCommandIsExactDifference : Prop :=
  encode .sub = 0x00000002#32 ∧
  (∀ x y : Int, (inRange (x - y) → sub x y = .ok (x - y)) ∧
    (¬ inRange (x - y) → sub x y = .error .overflow)) ∧
  ∀ s : State,
    (inRange (s.lA.toInt - s.lB.toInt) →
      exec .sub s = .next (s.completed (BitVec.ofInt 256 (s.lA.toInt - s.lB.toInt)) 0#4 0#32)) ∧
    (¬ inRange (s.lA.toInt - s.lB.toInt) → exec .sub s = .next (s.completed 0#256 5#4 0#32))

/-- R102, R106: MUL completes with the exact product over 10^27 truncated toward zero, or with
Overflow. -/
def Obligations.MulCommandIsTruncatedScaledProduct : Prop :=
  encode .mul = 0x00000003#32 ∧
  ∀ x y q : Int, q = Int.tdiv (x * y) (10 ^ 27) →
    (inRange q → mul x y = .ok q) ∧ (¬ inRange q → mul x y = .error .overflow) ∧
    ∀ s : State, x = s.lA.toInt → y = s.lB.toInt →
      (inRange q → exec .mul s = .next (s.completed (BitVec.ofInt 256 q) 0#4 0#32)) ∧
      (¬ inRange q → exec .mul s = .next (s.completed 0#256 5#4 0#32))

/-- R103, R107: DIV completes with DivisionByZero for a zero divisor whatever the dividend, else with the
exact scaled quotient truncated toward zero, or with Overflow. -/
def Obligations.DivCommandIsTruncatedScaledQuotient : Prop :=
  encode .div = 0x00000004#32 ∧
  ∀ x y q : Int, q = Int.tdiv (x * 10 ^ 27) y →
    (y = 0 → div x y = .error .divisionByZero) ∧ (y ≠ 0 → inRange q → div x y = .ok q) ∧
    (y ≠ 0 → ¬ inRange q → div x y = .error .overflow) ∧
    ∀ s : State, x = s.lA.toInt → y = s.lB.toInt →
      (y = 0 → exec .div s = .next (s.completed 0#256 2#4 0#32)) ∧
      (y ≠ 0 → inRange q → exec .div s = .next (s.completed (BitVec.ofInt 256 q) 0#4 0#32)) ∧
      (y ≠ 0 → ¬ inRange q → exec .div s = .next (s.completed 0#256 5#4 0#32))

/-- R108: the exact forms of `mul` and `div` where no error is raised, and their error below one unit. -/
def Obligations.MulAndDivExactForms : Prop :=
  (∀ x y m : Int, mul x y = .ok m →
    mul y x = .ok m ∧ m = (x * y).sign * (|x| * |y| / 10 ^ 27) ∧ (m = 0 ↔ |x * y| < 10 ^ 27) ∧
    |m| * 10 ^ 27 ≤ |x * y| ∧ |m * 10 ^ 27 - x * y| < 10 ^ 27) ∧
  (∀ x y q : Int, div x y = .ok q →
    q = (x * y).sign * (|x| * 10 ^ 27 / |y|) ∧ (∀ q', div x (-y) = .ok q' → q' = -q) ∧
    |q| * |y| ≤ |x| * 10 ^ 27 ∧ |q * y - x * 10 ^ 27| < |y|)

/-- R109: multiplying by an integer multiple of SCALE is exact. -/
def Obligations.MulByMultipleOfScaleIsExact : Prop :=
  ∀ k x : Int, (inRange (k * x) → mul (k * 10 ^ 27) x = .ok (k * x)) ∧
    (¬ inRange (k * x) → mul (k * 10 ^ 27) x = .error .overflow)

/-- R110: the corrected round-trip truncation law. -/
def Obligations.RoundTripTruncationLaw : Prop :=
  ∀ x y q m : Int, y ≠ 0 → div x y = .ok q → mul q y = .ok m →
    (m = 0 ∨ m.sign = x.sign) ∧ 0 ≤ |x| - |m| ∧ (|x| - |m|) * 10 ^ 27 < |y| + 10 ^ 27

/-! ## Square root -/

/-- R130: a negative operand raises NegativeSquareRoot and 0 gives 0, both with no Newton step. -/
def Obligations.SqrtChecksItsOperandFirst : Prop :=
  (∀ value : Int, value < 0 → sqrt value = (.error .negativeSquareRoot, 0)) ∧ sqrt 0 = (.ok 0, 0) ∧
  (∀ s : State, s.lA.toInt < 0 → exec .sqrt s = .next (s.completed 0#256 1#4 0#32)) ∧
  (∀ s : State, s.lA.toInt = 0 → exec .sqrt s = .next (s.completed 0#256 0#4 0#32))

/-- R136: every estimate is at least 1, and the loop ends after at most N(x₀) + 1 steps. The bound is one of
the rule's own loop, `NewtonRun`, whose end is the square root; it does not lean on the fuel of log entry
9. -/
def Obligations.NewtonEstimatesStayPositiveAndEnd : Prop :=
  (∀ value x z : Int, 1 ≤ value → 1 ≤ x → newtonStep value x = .ok z → 1 ≤ z) ∧
  (∀ value x : Int, 1 ≤ value → newtonStep value (seed value) = .ok x →
    ∃ (r : Result) (m : Nat), NewtonRun value x 1 r m ∧ (m : Int) ≤ x + 1 ∧ sqrt value = (r, m))

/-- R132: one Newton step on positive numbers is `div(add(mul(x, x), value), 2x)`, and it raises Overflow
exactly when one of its four values leaves the range. -/
def Obligations.NewtonStepIsTheRecurrence : Prop :=
  ∀ value x p q d z : Int, 1 ≤ value → 1 ≤ x → p = x * x / 10 ^ 27 → q = p + value → d = 2 * x →
    z = q * 10 ^ 27 / d →
    (inRange p ∧ inRange q ∧ inRange d ∧ inRange z → newtonStep value x = .ok z) ∧
    (¬ (inRange p ∧ inRange q ∧ inRange d ∧ inRange z) → newtonStep value x = .error .overflow)

/-- R133: the square root is the rule's loop: the first step is always taken, and from the second step on
the first estimate that is not smaller ends it and the one before it is returned. A first step that raises
ends it with its error and is counted (R134). -/
def Obligations.SqrtFollowsTheNewtonLoop : Prop :=
  ∀ value : Int, 1 ≤ value →
    (∀ x : Int, newtonStep value (value / 2 + 1) = .ok x →
      NewtonRun value x 1 (sqrt value).1 (sqrt value).2) ∧
    (∀ e : ErrorKind, newtonStep value (value / 2 + 1) = .error e → sqrt value = (.error e, 1))

/-- R137: the square root never raises DivisionByZero. -/
def Obligations.SqrtNeverDividesByZero : Prop :=
  ∀ value : Int, (sqrt value).1 ≠ .error .divisionByZero

/-- R138: the square of the returned root is at most value·SCALE, so `mul(s, s) ≤ value`. -/
def Obligations.SqrtIsAtMostTheTrueRoot : Prop :=
  ∀ (value r : Int) (n : Nat), sqrt value = (.ok r, n) →
    r * r ≤ value * 10 ^ 27 ∧ ∃ m, mul r r = .ok m ∧ m ≤ value

/-- From 4·SCALE up the first Newton step goes down from the seed (41_sqrt.md R139). -/
def Obligations.FirstNewtonStepDescends : Prop :=
  ∀ value x : Int, 4 * 10 ^ 27 ≤ value → newtonStep value (seed value) = .ok x → x < seed value

/-- R140: the square root raises Overflow exactly above V_MAX, always in step 1. -/
def Obligations.SqrtOverflowThreshold : Prop :=
  ∀ value : Int, ((sqrt value).1 = .error .overflow ↔
      15217890079594884195896944943995857553442579439691879 < value) ∧
    ((sqrt value).1 = .error .overflow → (sqrt value).2 = 1)

/-- The SQRT command completes on every operand (41_sqrt.md section 2): below 0 with NegativeSquareRoot and
ITER = 0, from 0 to V_MAX with a root not above the true one, and above V_MAX with Overflow and
ITER = 1. -/
def Obligations.SqrtCommandCompletes : Prop :=
  ∀ s : State,
    (s.lA.toInt < 0 → exec .sqrt s = .next (s.completed 0#256 1#4 0#32)) ∧
    (0 ≤ s.lA.toInt → s.lA.toInt ≤ sqrtMax →
      ∃ (r : Int) (n : Nat), sqrt s.lA.toInt = (.ok r, n) ∧ 0 ≤ r ∧ r * r ≤ s.lA.toInt * 10 ^ 27 ∧
        exec .sqrt s = .next (s.completed (BitVec.ofInt 256 r) 0#4 (BitVec.ofNat 32 (min n (2 ^ 32 - 1))))) ∧
    (sqrtMax < s.lA.toInt → exec .sqrt s = .next (s.completed 0#256 5#4 1#32))

/-! ## The quadratic evaluator -/

/-- On 128-bit coefficients SOLVE raises only its three documented errors, never Overflow (42_solve.md
R165). -/
def Obligations.SolveRaisesOnlyItsThreeErrors : Prop :=
  ∀ (a b c : Int) (e : ErrorKind), coefRange a → coefRange b → coefRange c →
    (solve a b c).1 = .error e →
    e = .negativeDiscriminant ∨ e = .divisionByZero ∨ e = .negativeRoot

/-- R161: `solve(0, b, c)` raises DivisionByZero. -/
def Obligations.SolveWithZeroLeadingCoefficient : Prop :=
  ∀ b c : Int, coefRange b → coefRange c → (solve 0 b c).1 = .error .divisionByZero

/-- R160: NegativeDiscriminant implies that a and c are not 0 and have the same sign. -/
def Obligations.NegativeDiscriminantNeedsLikeSigns : Prop :=
  ∀ a b c : Int, (solve a b c).1 = .error .negativeDiscriminant → a ≠ 0 ∧ c ≠ 0 ∧ a.sign = c.sign

/-- R162: the quotient by twoA is monotone in the numerator, so the root that steps 4 to 8 of the pipeline
select and test is root2 for a > 0 and root1 for a < 0. -/
def Obligations.SelectedRootFollowsSignOfA : Prop :=
  (∀ t t' w q q' : Int, t ≤ t' → div t w = .ok q → div t' w = .ok q' →
    (0 < w → q ≤ q') ∧ (w < 0 → q' ≤ q)) ∧
  (∀ a b sd t1 t2 root1 root2 : Int, 0 ≤ sd →
    sub (-b) sd = .ok t1 → div t1 (2 * a) = .ok root1 →
    add (-b) sd = .ok t2 → div t2 (2 * a) = .ok root2 →
    t2 - t1 = 2 * sd ∧
    (0 < a → max root1 root2 = root2 ∧
      largerRoot a b sd = if root2 < 0 then .error .negativeRoot else .ok root2) ∧
    (a < 0 → max root1 root2 = root1 ∧
      largerRoot a b sd = if root1 < 0 then .error .negativeRoot else .ok root1))

/-- R164: a zero discriminant gives sqrtDisc = 0 with no Newton step and the double root `div(-b, 2a)`. -/
def Obligations.ZeroDiscriminantGivesDoubleRoot : Prop :=
  sqrt 0 = (.ok 0, 0) ∧ ∀ a b c r : Int, coefRange b → discriminant a b c = .ok 0 → div (-b) (2 * a) = .ok r →
    solve a b c = (if r < 0 then .error .negativeRoot else .ok r, 0)

/-- R150 to R159: the SOLVE command, step by step, on the low 128 bits of each latch. -/
def Obligations.SolveCommandIsThePipeline : Prop :=
  encode .solve = 0x00000006#32 ∧
  ∀ (s : State) (a b c bSquared ac disc : Int),
    a = (s.lA.extractLsb' 0 128).toInt → b = (s.lB.extractLsb' 0 128).toInt →
    c = (s.lC.extractLsb' 0 128).toInt → bSquared = Int.tdiv (b * b) (10 ^ 27) →
    ac = Int.tdiv (a * c) (10 ^ 27) → disc = bSquared - 4 * ac →
    (disc < 0 → exec .solve s = .next (s.completed 0#256 3#4 0#32)) ∧
    (0 ≤ disc → ∃ (sd : Int) (n : Nat), sqrt disc = (.ok sd, n) ∧
      (a = 0 → exec .solve s = .next (s.completed 0#256 2#4 (BitVec.ofNat 32 (min n (2 ^ 32 - 1))))) ∧
      (a ≠ 0 → ∀ root1 root2 : Int, root1 = Int.tdiv ((-b - sd) * 10 ^ 27) (2 * a) →
        root2 = Int.tdiv ((-b + sd) * 10 ^ 27) (2 * a) →
        (max root1 root2 < 0 →
          exec .solve s = .next (s.completed 0#256 4#4 (BitVec.ofNat 32 (min n (2 ^ 32 - 1))))) ∧
        (0 ≤ max root1 root2 →
          exec .solve s = .next (s.completed (BitVec.ofInt 256 (max root1 root2)) 0#4
            (BitVec.ofNat 32 (min n (2 ^ 32 - 1)))))))

/-- The four worked examples of the source (95_test_vectors.md L1, E1 to E4). -/
def Obligations.SourceExamplesComeOutAsStated : Prop :=
  solve (10 ^ 27) (-2 * 10 ^ 27) (10 ^ 27) = (.ok (10 ^ 27), 0) ∧
  solve (10 ^ 27) 0 (10 ^ 27) = (.error .negativeDiscriminant, 0) ∧
  solve 0 (10 ^ 27) (-10 ^ 27) = (.error .divisionByZero, 7) ∧
  solve (10 ^ 27) (-3 * 10 ^ 27) (2 * 10 ^ 27) = (.ok (2 * 10 ^ 27), 7)

/-! ## Host programs -/

/-- The eight writes of `ld256` leave exactly `enc(v)` in the register they name (30_encoding.md R87). -/
def Obligations.Load256FillsTheRegister : Prop :=
  ∀ (s : State) (v : Int) (rest : List Event), inRange v →
    (s.agenda = stmtEvents (expand (.ld256 .opa v)) ++ rest →
      Sys2Proof.core.run 8 s = .next { s with opa := BitVec.ofInt 256 v, agenda := rest }) ∧
    (s.agenda = stmtEvents (expand (.ld256 .opb v)) ++ rest →
      Sys2Proof.core.run 8 s = .next { s with opb := BitVec.ofInt 256 v, agenda := rest }) ∧
    (s.agenda = stmtEvents (expand (.ld256 .opc v)) ++ rest →
      Sys2Proof.core.run 8 s = .next { s with opc := BitVec.ofInt 256 v, agenda := rest })

/-- The eight reads of `rd256` change no register and give the host the value of RES (30_encoding.md
R87). -/
def Obligations.Read256ReturnsTheResult : Prop :=
  ∀ (s : State) (rest : List Event), s.agenda = stmtEvents (expand .rd256) ++ rest →
    ∃ ws : List Word, ws.length = 8 ∧ rd256Value ws = s.res.toInt ∧
      Sys2Proof.core.run 8 s = .next { s with agenda := rest, received := s.received ++ ws }

/-- `go M` while idle and the sequencer's turn after it are the command's meaning on the operand registers
(30_encoding.md R87; R24, R184). -/
def Obligations.GoCommandRunsOnOperandRegisters : Prop :=
  ∀ (s : State) (i : Instr) (rest : List Event), i.wf = true → s.busy = false →
    s.agenda = stmtEvents (expand (.go i)) ++ .sequencer :: rest →
    Sys2Proof.core.run 2 s = exec i (State.started { s with agenda := rest } (encode i))
end

