-- ==== Sys2Proof/Laws/Arith.lean ====
section
/-! SUPPORT. What each primitive can answer, said once (spec/00_scope.md R8, R9; spec/40_arith.md R100 to
R103; spec/41_sqrt.md R130 to R134; spec/42_solve.md R151 to R158). -/

namespace Sys2Proof.Machine

/-- The quotient of R8 is the library's truncated quotient. -/
theorem tdiv_eq_int_tdiv (n d : Int) : tdiv n d = Int.tdiv n d := by
  unfold tdiv
  obtain ⟨a, rfl | rfl⟩ := n.eq_nat_or_neg <;> obtain ⟨b, rfl | rfl⟩ := d.eq_nat_or_neg <;>
    rcases Nat.eq_zero_or_pos a with rfl | ha <;> rcases Nat.eq_zero_or_pos b with rfl | hb <;>
    simp [Int.tdiv_neg, Int.neg_tdiv, *] <;> omega

/-- What `chk` can answer. -/
theorem chk_cases (v : Int) :
    (Config.minValue ≤ v ∧ v ≤ Config.maxValue ∧ chk v = .ok v) ∨
    (¬ (Config.minValue ≤ v ∧ v ≤ Config.maxValue) ∧ chk v = .error .overflow) := by
  unfold chk
  by_cases h : Config.minValue ≤ v ∧ v ≤ Config.maxValue <;> simp [h]

theorem chk_eq_ok {v w : Int} :
    chk v = .ok w ↔ w = v ∧ Config.minValue ≤ v ∧ v ≤ Config.maxValue := by
  unfold chk
  by_cases h : Config.minValue ≤ v ∧ v ≤ Config.maxValue <;> simp [h, eq_comm]

theorem chk_eq_error {v : Int} {e : ErrorKind} :
    chk v = .error e ↔ e = .overflow ∧ ¬ (Config.minValue ≤ v ∧ v ≤ Config.maxValue) := by
  unfold chk
  by_cases h : Config.minValue ≤ v ∧ v ≤ Config.maxValue <;> simp [h, eq_comm]

theorem chk_of_range {v : Int} (h : Config.minValue ≤ v ∧ v ≤ Config.maxValue) : chk v = .ok v :=
  chk_eq_ok.2 ⟨rfl, h⟩

theorem add_eq_ok {x y v : Int} :
    add x y = .ok v ↔ v = x + y ∧ Config.minValue ≤ x + y ∧ x + y ≤ Config.maxValue := chk_eq_ok

theorem sub_eq_ok {x y v : Int} :
    sub x y = .ok v ↔ v = x - y ∧ Config.minValue ≤ x - y ∧ x - y ≤ Config.maxValue := chk_eq_ok

theorem mul_eq_ok {x y v : Int} :
    mul x y = .ok v ↔ v = tdiv (x * y) Config.scale ∧
      Config.minValue ≤ tdiv (x * y) Config.scale ∧ tdiv (x * y) Config.scale ≤ Config.maxValue :=
  chk_eq_ok

theorem div_eq_ok {x y v : Int} :
    div x y = .ok v ↔ y ≠ 0 ∧ v = tdiv (x * Config.scale) y ∧
      Config.minValue ≤ tdiv (x * Config.scale) y ∧ tdiv (x * Config.scale) y ≤ Config.maxValue := by
  unfold div
  by_cases h : y = 0 <;> simp [h, chk_eq_ok]

/-- `div` by zero, whatever the dividend. -/
@[simp] theorem div_zero (x : Int) : div x 0 = .error .divisionByZero := by simp [div]

theorem div_of_ne_zero {x y : Int} (h : y ≠ 0) : div x y = chk (tdiv (x * Config.scale) y) := by
  simp [div, h]

/-- A Newton step that raises nothing, as its four values. -/
theorem newtonStep_eq_ok {value x z : Int} :
    newtonStep value x = .ok z ↔
      ∃ p q d, mul x x = .ok p ∧ add p value = .ok q ∧ mul (2 * Config.scale) x = .ok d ∧
        div q d = .ok z := by
  unfold newtonStep
  rcases mul x x with e | p
  · simp
  · rcases h2 : add p value with e | q <;> simp [h2]
    rcases mul (2 * Config.scale) x with e | d <;> simp

@[simp] theorem newtonLoop_zero (value x : Int) (n : Nat) : newtonLoop value 0 x n = (.ok x, n) := rfl

/-- A Newton step that raises ends the loop with its error, and is counted (R134). -/
theorem newtonLoop_of_error {value x : Int} {e : ErrorKind} (fuel n : Nat)
    (h : newtonStep value x = .error e) : newtonLoop value (fuel + 1) x n = (.error e, n + 1) := by
  simp [newtonLoop, h]

/-- The first new estimate that is not smaller ends the loop, which returns the one before it (R133). -/
theorem newtonLoop_of_le {value x x' : Int} (fuel n : Nat) (h : newtonStep value x = .ok x')
    (hx : x ≤ x') : newtonLoop value (fuel + 1) x n = (.ok x, n + 1) := by
  simp [newtonLoop, h, hx]

/-- A smaller new estimate goes on (R133). -/
theorem newtonLoop_of_lt {value x x' : Int} (fuel n : Nat) (h : newtonStep value x = .ok x')
    (hx : x' < x) : newtonLoop value (fuel + 1) x n = newtonLoop value fuel x' (n + 1) := by
  simp [newtonLoop, h, not_le.2 hx]

theorem sqrt_neg {value : Int} (h : value < 0) : sqrt value = (.error .negativeSquareRoot, 0) := by
  simp [sqrt, h]

@[simp] theorem sqrt_zero : sqrt 0 = (.ok 0, 0) := by simp [sqrt]

theorem sqrt_of_first_error {value : Int} {e : ErrorKind} (h : 0 < value)
    (hs : newtonStep value (seed value) = .error e) : sqrt value = (.error e, 1) := by
  simp [sqrt, not_lt.2 h.le, h.ne', hs]

theorem sqrt_of_first_ok {value x : Int} (h : 0 < value)
    (hs : newtonStep value (seed value) = .ok x) : sqrt value = newtonLoop value x.toNat x 1 := by
  simp [sqrt, not_lt.2 h.le, h.ne', hs]

/-- A discriminant that raises nothing, as its four values. -/
theorem discriminant_eq_ok {a b c v : Int} :
    discriminant a b c = .ok v ↔
      ∃ bSquared ac ac4, mul b b = .ok bSquared ∧ mul a c = .ok ac ∧
        mul (4 * Config.scale) ac = .ok ac4 ∧ sub bSquared ac4 = .ok v := by
  unfold discriminant
  rcases mul b b with e | p
  · simp
  · rcases mul a c with e | q
    · simp
    · rcases h : mul (4 * Config.scale) q with e | d <;> simp [h]

theorem solve_of_discriminant_error {a b c : Int} {e : ErrorKind}
    (h : discriminant a b c = .error e) : solve a b c = (.error e, 0) := by
  simp [solve, h]

/-- A negative discriminant ends the pipeline before any square root (R153). -/
theorem solve_of_discriminant_neg {a b c disc : Int} (h : discriminant a b c = .ok disc)
    (hd : disc < 0) : solve a b c = (.error .negativeDiscriminant, 0) := by
  simp [solve, h, hd]

theorem solve_of_sqrt_error {a b c disc : Int} {e : ErrorKind} {n : Nat}
    (h : discriminant a b c = .ok disc) (hd : 0 ≤ disc) (hs : sqrt disc = (.error e, n)) :
    solve a b c = (.error e, n) := by
  simp [solve, h, not_lt.2 hd, hs]

/-- After the square root the pipeline answers what steps 4 to 8 answer, with the square root's count
(R154). -/
theorem solve_of_sqrt_ok {a b c disc sqrtDisc : Int} {n : Nat}
    (h : discriminant a b c = .ok disc) (hd : 0 ≤ disc) (hs : sqrt disc = (.ok sqrtDisc, n)) :
    solve a b c = (largerRoot a b sqrtDisc, n) := by
  simp [solve, h, not_lt.2 hd, hs]

/-- A larger root that is returned: it is the greater of two quotients and not negative (R156 to R158). -/
theorem largerRoot_eq_ok {a b sqrtDisc r : Int} :
    largerRoot a b sqrtDisc = .ok r ↔
      ∃ t1 root1 t2 root2, sub (-b) sqrtDisc = .ok t1 ∧ div t1 (2 * a) = .ok root1 ∧
        add (-b) sqrtDisc = .ok t2 ∧ div t2 (2 * a) = .ok root2 ∧ r = max root1 root2 ∧ 0 ≤ r := by
  unfold largerRoot
  rcases h1 : sub (-b) sqrtDisc with e | t1
  · simp [h1]
  rcases h2 : div t1 (2 * a) with e | root1
  · simp [h1, h2]
  rcases h3 : add (-b) sqrtDisc with e | t2
  · simp [h1, h2, h3]
  rcases h4 : div t2 (2 * a) with e | root2
  · simp [h1, h2, h3, h4]
  by_cases hr : max root1 root2 < 0
  · simp only [h1, h2, h3, h4, hr, if_true, Except.ok.injEq, exists_and_left, exists_eq_left']
    constructor
    · intro h; cases h
    · rintro ⟨rfl, h⟩; omega
  · simp only [h1, h2, h3, h4, hr, if_false, Except.ok.injEq, exists_and_left, exists_eq_left']
    constructor
    · rintro rfl; exact ⟨rfl, by omega⟩
    · rintro ⟨rfl, -⟩; rfl

end Sys2Proof.Machine
end

