-- ==== Sys2Proof/Laws/Bits.lean ====
section
/-! SUPPORT. The words of a 256-bit register, and patterns as signed integers (spec/00_scope.md R10, R11;
spec/20_memory.md R58). -/

namespace Sys2Proof.Machine

/-- A word of a register, bit by bit. -/
@[simp] theorem getLsbD_getWord (r : Wide) (k i : Nat) :
    (getWord r k).getLsbD i = (decide (i < 32) && r.getLsbD (32 * k + i)) := by
  simp [getWord, BitVec.getLsbD_extractLsb']

/-- A register after a word write, bit by bit: the addressed word is the new one, the rest is as before. -/
theorem getLsbD_setWord (r : Wide) (k : Nat) (w : Word) (i : Nat) :
    (setWord r k w).getLsbD i =
      (decide (i < 256) &&
        (if 32 * k ≤ i ∧ i < 32 * k + 32 then w.getLsbD (i - 32 * k) else r.getLsbD i)) := by
  simp only [setWord, BitVec.getLsbD_or, BitVec.getLsbD_and, BitVec.getLsbD_not,
    BitVec.getLsbD_shiftLeft, BitVec.getLsbD_setWidth, BitVec.getLsbD_allOnes]
  by_cases hi : i < 256
  · by_cases h1 : i < 32 * k
    · have h2 : ¬ 32 * k ≤ i := by omega
      simp [hi, h1, h2]
    · have h2 : 32 * k ≤ i := by omega
      by_cases h3 : i < 32 * k + 32
      · have h4 : i - 32 * k < 32 := by omega
        have h5 : i - 32 * k < 256 := by omega
        simp [hi, h1, h2, h3, h4, h5]
      · have h4 : ¬ i - 32 * k < 32 := by omega
        have h5 : i - 32 * k < 256 := by omega
        simp [hi, h1, h3, h4, h5, BitVec.getLsbD_of_ge w (i - 32 * k) (by omega)]
  · simp [hi, BitVec.getLsbD_of_ge r i (by omega)]

/-- The word just written reads back. -/
theorem getWord_setWord_same (r : Wide) (k : Nat) (w : Word) (hk : k < 8) :
    getWord (setWord r k w) k = w := by
  ext i hi
  simp only [← BitVec.getLsbD_eq_getElem, getLsbD_getWord, getLsbD_setWord]
  have h : 32 * k + i < 256 := by omega
  simp [hi, h]

/-- A word write leaves every other word alone. -/
theorem getWord_setWord_ne (r : Wide) (j k : Nat) (w : Word) (hj : j < 8) (h : j ≠ k) :
    getWord (setWord r k w) j = getWord r j := by
  ext i hi
  simp only [← BitVec.getLsbD_eq_getElem, getLsbD_getWord, getLsbD_setWord]
  have h1 : 32 * j + i < 256 := by omega
  have h2 : ¬ (32 * k ≤ 32 * j + i ∧ 32 * j + i < 32 * k + 32) := by omega
  simp [hi, h1, h2]

/-- Two registers with the same eight words are the same. -/
theorem eq_of_getWord_eq {r q : Wide} (h : ∀ k < 8, getWord r k = getWord q k) : r = q := by
  ext i hi
  simp only [← BitVec.getLsbD_eq_getElem]
  have hw := congrArg (fun v => v.getLsbD (i % 32)) (h (i / 32) (by omega))
  have h1 : i % 32 < 32 := by omega
  have h2 : 32 * (i / 32) + i % 32 = i := by omega
  simpa only [getLsbD_getWord, h1, h2, decide_true, Bool.true_and] using hw

/-- A value read from a register is in the signed 256-bit range. -/
theorem val_range (r : Wide) : Config.minValue ≤ val r ∧ val r ≤ Config.maxValue := by
  have h1 := BitVec.two_mul_toInt_lt (x := r)
  have h2 := BitVec.le_two_mul_toInt (x := r)
  unfold val Config.minValue Config.maxValue
  omega

end Sys2Proof.Machine
end

