-- ==== Sys2Proof/Laws/State.lean ====
section
/-! SUPPORT. One lemma per field and update: what each register holds after a command start, a completion,
a CTRL, STATUS or SCALE_EXP write, and a reset. -/

namespace Sys2Proof.Machine.State

variable (s : State)

@[simp] theorem start_ie (w : Word) : (s.start w).ie = s.ie := rfl
@[simp] theorem start_busy (w : Word) : (s.start w).busy = true := rfl
@[simp] theorem start_done (w : Word) : (s.start w).done = false := rfl
@[simp] theorem start_ignored (w : Word) : (s.start w).ignored = s.ignored := rfl
@[simp] theorem start_errcode (w : Word) : (s.start w).errcode = 0#4 := rfl
@[simp] theorem start_scaleExp (w : Word) : (s.start w).scaleExp = s.scaleExp := rfl
@[simp] theorem start_iter (w : Word) : (s.start w).iter = s.iter := rfl
@[simp] theorem start_opa (w : Word) : (s.start w).opa = s.opa := rfl
@[simp] theorem start_opb (w : Word) : (s.start w).opb = s.opb := rfl
@[simp] theorem start_opc (w : Word) : (s.start w).opc = s.opc := rfl
@[simp] theorem start_res (w : Word) : (s.start w).res = s.res := rfl
@[simp] theorem start_lOp (w : Word) : (s.start w).lOp = w := rfl
@[simp] theorem start_lA (w : Word) : (s.start w).lA = s.opa := rfl
@[simp] theorem start_lB (w : Word) : (s.start w).lB = s.opb := rfl
@[simp] theorem start_lC (w : Word) : (s.start w).lC = s.opc := rfl
@[simp] theorem start_agenda (w : Word) : (s.start w).agenda = s.agenda := rfl
@[simp] theorem start_received (w : Word) : (s.start w).received = s.received := rfl

@[simp] theorem finish_ie (r : Result) (n : Nat) : (s.finish r n).ie = s.ie := rfl
@[simp] theorem finish_busy (r : Result) (n : Nat) : (s.finish r n).busy = false := rfl
@[simp] theorem finish_done (r : Result) (n : Nat) : (s.finish r n).done = true := rfl
@[simp] theorem finish_ignored (r : Result) (n : Nat) : (s.finish r n).ignored = s.ignored := rfl
@[simp] theorem finish_errcode (r : Result) (n : Nat) : (s.finish r n).errcode = Result.errcode r := rfl
@[simp] theorem finish_scaleExp (r : Result) (n : Nat) : (s.finish r n).scaleExp = s.scaleExp := rfl
@[simp] theorem finish_iter (r : Result) (n : Nat) : (s.finish r n).iter = iterWord n := rfl
@[simp] theorem finish_opa (r : Result) (n : Nat) : (s.finish r n).opa = s.opa := rfl
@[simp] theorem finish_opb (r : Result) (n : Nat) : (s.finish r n).opb = s.opb := rfl
@[simp] theorem finish_opc (r : Result) (n : Nat) : (s.finish r n).opc = s.opc := rfl
@[simp] theorem finish_res (r : Result) (n : Nat) : (s.finish r n).res = Result.resWord r := rfl
@[simp] theorem finish_lOp (r : Result) (n : Nat) : (s.finish r n).lOp = s.lOp := rfl
@[simp] theorem finish_lA (r : Result) (n : Nat) : (s.finish r n).lA = s.lA := rfl
@[simp] theorem finish_lB (r : Result) (n : Nat) : (s.finish r n).lB = s.lB := rfl
@[simp] theorem finish_lC (r : Result) (n : Nat) : (s.finish r n).lC = s.lC := rfl
@[simp] theorem finish_agenda (r : Result) (n : Nat) : (s.finish r n).agenda = s.agenda := rfl
@[simp] theorem finish_received (r : Result) (n : Nat) : (s.finish r n).received = s.received := rfl

@[simp] theorem writeCtrl_ie (w : Word) : (s.writeCtrl w).ie = w[0] := rfl
@[simp] theorem writeCtrl_busy (w : Word) : (s.writeCtrl w).busy = s.busy := rfl
@[simp] theorem writeCtrl_done (w : Word) : (s.writeCtrl w).done = s.done := rfl
@[simp] theorem writeCtrl_ignored (w : Word) : (s.writeCtrl w).ignored = s.ignored := rfl
@[simp] theorem writeCtrl_errcode (w : Word) : (s.writeCtrl w).errcode = s.errcode := rfl
@[simp] theorem writeCtrl_scaleExp (w : Word) : (s.writeCtrl w).scaleExp = s.scaleExp := rfl
@[simp] theorem writeCtrl_iter (w : Word) : (s.writeCtrl w).iter = s.iter := rfl
@[simp] theorem writeCtrl_opa (w : Word) : (s.writeCtrl w).opa = s.opa := rfl
@[simp] theorem writeCtrl_opb (w : Word) : (s.writeCtrl w).opb = s.opb := rfl
@[simp] theorem writeCtrl_opc (w : Word) : (s.writeCtrl w).opc = s.opc := rfl
@[simp] theorem writeCtrl_res (w : Word) : (s.writeCtrl w).res = s.res := rfl
@[simp] theorem writeCtrl_lOp (w : Word) : (s.writeCtrl w).lOp = s.lOp := rfl
@[simp] theorem writeCtrl_lA (w : Word) : (s.writeCtrl w).lA = s.lA := rfl
@[simp] theorem writeCtrl_lB (w : Word) : (s.writeCtrl w).lB = s.lB := rfl
@[simp] theorem writeCtrl_lC (w : Word) : (s.writeCtrl w).lC = s.lC := rfl
@[simp] theorem writeCtrl_agenda (w : Word) : (s.writeCtrl w).agenda = s.agenda := rfl
@[simp] theorem writeCtrl_received (w : Word) : (s.writeCtrl w).received = s.received := rfl

@[simp] theorem writeStatus_ie (w : Word) : (s.writeStatus w).ie = s.ie := rfl
@[simp] theorem writeStatus_busy (w : Word) : (s.writeStatus w).busy = s.busy := rfl
@[simp] theorem writeStatus_done (w : Word) : (s.writeStatus w).done = (s.done && !w[1]) := rfl
@[simp] theorem writeStatus_ignored (w : Word) : (s.writeStatus w).ignored = (s.ignored && !w[3]) := rfl
@[simp] theorem writeStatus_errcode (w : Word) : (s.writeStatus w).errcode = s.errcode := rfl
@[simp] theorem writeStatus_scaleExp (w : Word) : (s.writeStatus w).scaleExp = s.scaleExp := rfl
@[simp] theorem writeStatus_iter (w : Word) : (s.writeStatus w).iter = s.iter := rfl
@[simp] theorem writeStatus_opa (w : Word) : (s.writeStatus w).opa = s.opa := rfl
@[simp] theorem writeStatus_opb (w : Word) : (s.writeStatus w).opb = s.opb := rfl
@[simp] theorem writeStatus_opc (w : Word) : (s.writeStatus w).opc = s.opc := rfl
@[simp] theorem writeStatus_res (w : Word) : (s.writeStatus w).res = s.res := rfl
@[simp] theorem writeStatus_lOp (w : Word) : (s.writeStatus w).lOp = s.lOp := rfl
@[simp] theorem writeStatus_lA (w : Word) : (s.writeStatus w).lA = s.lA := rfl
@[simp] theorem writeStatus_lB (w : Word) : (s.writeStatus w).lB = s.lB := rfl
@[simp] theorem writeStatus_lC (w : Word) : (s.writeStatus w).lC = s.lC := rfl
@[simp] theorem writeStatus_agenda (w : Word) : (s.writeStatus w).agenda = s.agenda := rfl
@[simp] theorem writeStatus_received (w : Word) : (s.writeStatus w).received = s.received := rfl

@[simp] theorem writeScaleExp_ie (w : Word) : (s.writeScaleExp w).ie = s.ie := rfl
@[simp] theorem writeScaleExp_busy (w : Word) : (s.writeScaleExp w).busy = s.busy := rfl
@[simp] theorem writeScaleExp_done (w : Word) : (s.writeScaleExp w).done = s.done := rfl
@[simp] theorem writeScaleExp_ignored (w : Word) : (s.writeScaleExp w).ignored = s.ignored := rfl
@[simp] theorem writeScaleExp_errcode (w : Word) : (s.writeScaleExp w).errcode = s.errcode := rfl
@[simp] theorem writeScaleExp_scaleExp (w : Word) : (s.writeScaleExp w).scaleExp = w.setWidth 8 := rfl
@[simp] theorem writeScaleExp_iter (w : Word) : (s.writeScaleExp w).iter = s.iter := rfl
@[simp] theorem writeScaleExp_opa (w : Word) : (s.writeScaleExp w).opa = s.opa := rfl
@[simp] theorem writeScaleExp_opb (w : Word) : (s.writeScaleExp w).opb = s.opb := rfl
@[simp] theorem writeScaleExp_opc (w : Word) : (s.writeScaleExp w).opc = s.opc := rfl
@[simp] theorem writeScaleExp_res (w : Word) : (s.writeScaleExp w).res = s.res := rfl
@[simp] theorem writeScaleExp_lOp (w : Word) : (s.writeScaleExp w).lOp = s.lOp := rfl
@[simp] theorem writeScaleExp_lA (w : Word) : (s.writeScaleExp w).lA = s.lA := rfl
@[simp] theorem writeScaleExp_lB (w : Word) : (s.writeScaleExp w).lB = s.lB := rfl
@[simp] theorem writeScaleExp_lC (w : Word) : (s.writeScaleExp w).lC = s.lC := rfl
@[simp] theorem writeScaleExp_agenda (w : Word) : (s.writeScaleExp w).agenda = s.agenda := rfl
@[simp] theorem writeScaleExp_received (w : Word) : (s.writeScaleExp w).received = s.received := rfl

@[simp] theorem resetEvent_ie : s.resetEvent.ie = false := rfl
@[simp] theorem resetEvent_busy : s.resetEvent.busy = false := rfl
@[simp] theorem resetEvent_done : s.resetEvent.done = false := rfl
@[simp] theorem resetEvent_ignored : s.resetEvent.ignored = false := rfl
@[simp] theorem resetEvent_errcode : s.resetEvent.errcode = 0#4 := rfl
@[simp] theorem resetEvent_scaleExp : s.resetEvent.scaleExp = 0#8 := rfl
@[simp] theorem resetEvent_iter : s.resetEvent.iter = 0#32 := rfl
@[simp] theorem resetEvent_opa : s.resetEvent.opa = 0#256 := rfl
@[simp] theorem resetEvent_opb : s.resetEvent.opb = 0#256 := rfl
@[simp] theorem resetEvent_opc : s.resetEvent.opc = 0#256 := rfl
@[simp] theorem resetEvent_res : s.resetEvent.res = 0#256 := rfl
@[simp] theorem resetEvent_lOp : s.resetEvent.lOp = 0#32 := rfl
@[simp] theorem resetEvent_lA : s.resetEvent.lA = 0#256 := rfl
@[simp] theorem resetEvent_lB : s.resetEvent.lB = 0#256 := rfl
@[simp] theorem resetEvent_lC : s.resetEvent.lC = 0#256 := rfl
@[simp] theorem resetEvent_agenda : s.resetEvent.agenda = s.agenda := rfl
@[simp] theorem resetEvent_received : s.resetEvent.received = s.received := rfl

end Sys2Proof.Machine.State
end

