-- ==== Sys2Proof/Laws/Ops.lean ====
section
/-! SUPPORT. What the bus transfers can do, said once (spec/20_memory.md R50 to R57). -/

namespace Sys2Proof.Machine

/-- An address inside the register space has its offset. -/
theorem offsetOf_base_add {off : Nat} (h : off < 256) : offsetOf (Config.base + off) = some off := by
  simp [offsetOf, Config.regSpace, h]

theorem offsetOf_eq_some {addr off : Nat} (h : offsetOf addr = some off) :
    addr = Config.base + off ∧ off < 256 := by
  unfold offsetOf Config.regSpace at h
  split at h
  · simp only [Option.some.injEq] at h; omega
  · simp at h

/-- A transfer inside the interface takes effect at its offset. -/
theorem transfer_at (s : State) {off : Nat} (h : off < 256) (ha : off % 4 = 0) (a : Access) :
    s.transfer { addr := Config.base + off, bits := 32, access := a } = .next (s.access off a) := by
  simp [State.transfer, offsetOf_base_add h, ha]

/-- If a transfer answers a next state, it was one word at an aligned offset of the block. -/
theorem transfer_cases {s s' : State} {t : Transfer} (h : s.transfer t = .next s') :
    ∃ off, t.bits = 32 ∧ t.addr = Config.base + off ∧ off < 256 ∧ off % 4 = 0 ∧
      s' = s.access off t.access := by
  unfold State.transfer at h
  split at h
  · next hb =>
    split at h
    · next off ho =>
      split at h
      · next ha => exact ⟨off, hb, (offsetOf_eq_some ho).1, (offsetOf_eq_some ho).2, ha, by simpa using h.symm⟩
      · cases h
    · cases h
  · cases h

/-- A well-formed transfer, condition by condition. -/
theorem transfer_wf_iff (t : Transfer) :
    t.wf = true ↔ t.bits = 32 ∧ Config.base ≤ t.addr ∧ t.addr < Config.base + 256 ∧
      (t.addr - Config.base) % 4 = 0 := by
  unfold Transfer.wf Config.regSpace
  simp only [Bool.and_eq_true, beq_iff_eq, decide_eq_true_eq, and_assoc]

/-- A well-formed transfer takes effect at its offset. -/
theorem transfer_of_wf (s : State) {t : Transfer} (h : t.wf = true) :
    ∃ off, off < 256 ∧ off % 4 = 0 ∧ t.addr = Config.base + off ∧
      s.transfer t = .next (s.access off t.access) := by
  obtain ⟨h1, h2, h3, h4⟩ := (transfer_wf_iff t).1 h
  have ha : t.addr = Config.base + (t.addr - Config.base) := by omega
  refine ⟨t.addr - Config.base, by omega, h4, ha, ?_⟩
  have ht : t = { addr := Config.base + (t.addr - Config.base), bits := 32, access := t.access } := by
    rw [← ha, ← h1]
  exact (congrArg s.transfer ht).trans (transfer_at s (by omega) h4 t.access)

/-- Everything a write to a register word can do. -/
theorem writeReg_cases (s : State) (w : Word) (r : Option RegName) :
    s.writeReg w r = s ∨
    (r = some .ctrl ∧ s.writeReg w r = s.writeCtrl w) ∨
    (r = some .cmd ∧ s.busy = true ∧ s.writeReg w r = { s with ignored := true }) ∨
    (r = some .cmd ∧ s.busy = false ∧ s.writeReg w r = s.start w) ∨
    (r = some .status ∧ s.writeReg w r = s.writeStatus w) ∨
    (r = some .scaleExp ∧ s.writeReg w r = s.writeScaleExp w) ∨
    (∃ k, r = some (.opa k) ∧ s.writeReg w r = { s with opa := setWord s.opa k.val w }) ∨
    (∃ k, r = some (.opb k) ∧ s.writeReg w r = { s with opb := setWord s.opb k.val w }) ∨
    (∃ k, r = some (.opc k) ∧ s.writeReg w r = { s with opc := setWord s.opc k.val w }) := by
  rcases r with _ | r
  · exact .inl rfl
  · cases r <;> cases hb : s.busy <;> simp [State.writeReg, State.writeCmd, hb]

/-! What each field holds after a write to a register word; the others by `writeReg_cases`. -/

section Fields

variable (s : State) (w : Word) (r : Option RegName)

@[simp] theorem writeReg_res : (s.writeReg w r).res = s.res := by
  rcases writeReg_cases s w r with h | ⟨_, h⟩ | ⟨_, _, h⟩ | ⟨_, _, h⟩ | ⟨_, h⟩ | ⟨_, h⟩ | ⟨_, _, h⟩ |
    ⟨_, _, h⟩ | ⟨_, _, h⟩ <;> simp [h]

@[simp] theorem writeReg_iter : (s.writeReg w r).iter = s.iter := by
  rcases writeReg_cases s w r with h | ⟨_, h⟩ | ⟨_, _, h⟩ | ⟨_, _, h⟩ | ⟨_, h⟩ | ⟨_, h⟩ | ⟨_, _, h⟩ |
    ⟨_, _, h⟩ | ⟨_, _, h⟩ <;> simp [h]

@[simp] theorem writeReg_agenda : (s.writeReg w r).agenda = s.agenda := by
  rcases writeReg_cases s w r with h | ⟨_, h⟩ | ⟨_, _, h⟩ | ⟨_, _, h⟩ | ⟨_, h⟩ | ⟨_, h⟩ | ⟨_, _, h⟩ |
    ⟨_, _, h⟩ | ⟨_, _, h⟩ <;> simp [h]

@[simp] theorem writeReg_received : (s.writeReg w r).received = s.received := by
  rcases writeReg_cases s w r with h | ⟨_, h⟩ | ⟨_, _, h⟩ | ⟨_, _, h⟩ | ⟨_, h⟩ | ⟨_, h⟩ | ⟨_, _, h⟩ |
    ⟨_, _, h⟩ | ⟨_, _, h⟩ <;> simp [h]

/-- BUSY rises at a CMD write and nowhere else (R30). -/
@[simp] theorem writeReg_busy : (s.writeReg w r).busy = (s.busy || decide (r = some .cmd)) := by
  rcases r with _ | r
  · simp [State.writeReg]
  · cases r <;> cases hb : s.busy <;> simp [State.writeReg, State.writeCmd, hb]

/-- DONE falls at a start and at a STATUS write with bit 1 set (R31). -/
@[simp] theorem writeReg_done : (s.writeReg w r).done =
    (s.done && (s.busy || decide (r ≠ some .cmd)) && !(decide (r = some .status) && w[1])) := by
  rcases r with _ | r
  · simp [State.writeReg]
  · cases r <;> cases hb : s.busy <;> simp [State.writeReg, State.writeCmd, hb]

/-- IGNORED rises at a CMD write while BUSY = 1 and falls at a STATUS write with bit 3 set (R33). -/
@[simp] theorem writeReg_ignored : (s.writeReg w r).ignored =
    ((s.ignored || (decide (r = some .cmd) && s.busy)) && !(decide (r = some .status) && w[3])) := by
  rcases r with _ | r
  · simp [State.writeReg]
  · cases r <;> cases hb : s.busy <;> simp [State.writeReg, State.writeCmd, hb]

/-- ERRCODE is cleared by a start (R34). -/
@[simp] theorem writeReg_errcode : (s.writeReg w r).errcode =
    if r = some .cmd ∧ s.busy = false then 0#4 else s.errcode := by
  rcases r with _ | r
  · simp [State.writeReg]
  · cases r <;> cases hb : s.busy <;> simp [State.writeReg, State.writeCmd, hb]

/-- The latches are loaded by a start and by nothing else (R35). -/
theorem writeReg_latches (h : ¬ (r = some .cmd ∧ s.busy = false)) :
    (s.writeReg w r).lOp = s.lOp ∧ (s.writeReg w r).lA = s.lA ∧ (s.writeReg w r).lB = s.lB ∧
      (s.writeReg w r).lC = s.lC := by
  rcases r with _ | r
  · simp [State.writeReg]
  · cases r <;> cases hb : s.busy <;> simp_all [State.writeReg, State.writeCmd]

end Fields

end Sys2Proof.Machine
end

