-- ==== Sys2Proof/Laws/Step.lean ====
section
/-! SUPPORT. What a command and a step can do, said once (spec/60_exceptions.md R184; spec/20_memory.md
R59). -/

namespace Sys2Proof.Machine

/-- Every command completes with some outcome and step count. -/
theorem exec_cases (i : Instr) (s : State) : ∃ r n, exec i s = .next (s.finish r n) := by
  cases i <;> exact ⟨_, _, rfl⟩

/-- So does the latched word, legal or not. -/
theorem complete_cases (s : State) : ∃ r n, s.complete = .next (s.finish r n) := by
  unfold State.complete
  cases decode s.lOp with
  | error e => exact ⟨_, _, rfl⟩
  | ok i => exact exec_cases i s

/-- The sequencer's turn either completes the running command or changes nothing. -/
theorem sequencerTurn_cases {s s' : State} (h : s.sequencerTurn = .next s') :
    (s.busy = true ∧ ∃ r n, s' = s.finish r n) ∨ (s.busy = false ∧ s' = s) := by
  unfold State.sequencerTurn at h
  cases hb : s.busy with
  | false => simp [hb] at h; exact .inr ⟨rfl, h.symm⟩
  | true =>
    obtain ⟨r, n, hc⟩ := complete_cases s
    simp [hb, hc] at h
    exact .inl ⟨rfl, r, n, h.symm⟩

/-- Everything a step can do: the sequencer's turn, one accepted transfer, or a reset. -/
theorem step_cases {s s' : State} (h : step s = .next s') :
    (s.agenda = [] ∧ s.sequencerTurn = .next s') ∨
    (∃ rest, s.agenda = .sequencer :: rest ∧
      State.sequencerTurn { s with agenda := rest } = .next s') ∨
    (∃ rest t off, s.agenda = .host t :: rest ∧ t.bits = 32 ∧ t.addr = Config.base + off ∧ off < 256 ∧
      off % 4 = 0 ∧ s' = State.access { s with agenda := rest } off t.access) ∨
    (∃ rest, s.agenda = .reset :: rest ∧ s' = State.resetEvent { s with agenda := rest }) := by
  unfold step State.advance at h
  split at h
  · next ha => exact .inl ⟨ha, h⟩
  · next e rest ha =>
    cases e with
    | sequencer => exact .inr (.inl ⟨rest, ha, h⟩)
    | reset =>
      simp only [State.handle, Host.Outcome.next.injEq] at h
      exact .inr (.inr (.inr ⟨rest, ha, h.symm⟩))
    | hostInReset t => simp [State.handle] at h
    | host t =>
      obtain ⟨off, h1, h2, h3, h4, h5⟩ := transfer_cases h
      exact .inr (.inr (.inl ⟨rest, t, off, ha, h1, h2, h3, h4, h5⟩))

/-- With an empty agenda the step is the sequencer's turn. -/
theorem step_of_nil {s : State} (h : s.agenda = []) : step s = s.sequencerTurn := by
  simp [step, State.advance, h]

/-- With an event at the head of the agenda the step is that event. -/
theorem step_of_cons {s : State} {e : Event} {rest : List Event} (h : s.agenda = e :: rest) :
    step s = State.handle { s with agenda := rest } e := by
  simp [step, State.advance, h]

end Sys2Proof.Machine
end

