-- ==== Sys2Proof/Laws/Events.lean ====
section
/-! SUPPORT. The words of Safety.lean about events: which agent moves, and what one event leaves. -/

namespace Sys2Proof.Machine

theorem eventTaken_of_nil {s : State} (h : s.agenda = []) : s.eventTaken = s := by
  rw [State.eventTaken, h, List.tail_nil, ← h]

theorem eventTaken_of_cons {s : State} {e : Event} {rest : List Event} (h : s.agenda = e :: rest) :
    s.eventTaken = { s with agenda := rest } := by
  rw [State.eventTaken, h, List.tail_cons]

/-- When the sequencer is the next to move, the step is its turn. -/
theorem step_of_sequencerMoves {s : State} (h : s.sequencerMoves) :
    step s = s.eventTaken.sequencerTurn := by
  rcases h with h | ⟨rest, h⟩
  · rw [step_of_nil h, eventTaken_of_nil h]
  · rw [step_of_cons h, eventTaken_of_cons h, State.handle]

/-- A read event at an aligned offset of the block. -/
theorem step_of_busRead {s : State} {off : Nat} {rest : List Event} (ha : s.agenda = busRead off :: rest)
    (h4 : off % 4 = 0) (h : off < 256) :
    step s = .next { s with agenda := rest, received := s.received ++ [s.readWord off] } := by
  rw [step_of_cons ha]
  exact transfer_at { s with agenda := rest } h h4 .read

/-- A write event at an aligned offset of the block. -/
theorem step_of_busWrite {s : State} {off : Nat} {w : Word} {rest : List Event}
    (ha : s.agenda = busWrite off w :: rest) (h4 : off % 4 = 0) (h : off < 256) :
    step s = .next (State.writeWord { s with agenda := rest } off w) := by
  rw [step_of_cons ha]
  exact transfer_at { s with agenda := rest } h h4 (.write w)

/-- A reset event. -/
theorem step_of_reset {s : State} {rest : List Event} (ha : s.agenda = .reset :: rest) :
    step s = .next (State.resetEvent { s with agenda := rest }) := by
  rw [step_of_cons ha, State.handle]

@[simp] theorem eventTaken_ie (s : State) : s.eventTaken.ie = s.ie := rfl
@[simp] theorem eventTaken_busy (s : State) : s.eventTaken.busy = s.busy := rfl
@[simp] theorem eventTaken_done (s : State) : s.eventTaken.done = s.done := rfl
@[simp] theorem eventTaken_ignored (s : State) : s.eventTaken.ignored = s.ignored := rfl
@[simp] theorem eventTaken_errcode (s : State) : s.eventTaken.errcode = s.errcode := rfl
@[simp] theorem eventTaken_scaleExp (s : State) : s.eventTaken.scaleExp = s.scaleExp := rfl
@[simp] theorem eventTaken_iter (s : State) : s.eventTaken.iter = s.iter := rfl
@[simp] theorem eventTaken_opa (s : State) : s.eventTaken.opa = s.opa := rfl
@[simp] theorem eventTaken_opb (s : State) : s.eventTaken.opb = s.opb := rfl
@[simp] theorem eventTaken_opc (s : State) : s.eventTaken.opc = s.opc := rfl
@[simp] theorem eventTaken_res (s : State) : s.eventTaken.res = s.res := rfl
@[simp] theorem eventTaken_lOp (s : State) : s.eventTaken.lOp = s.lOp := rfl
@[simp] theorem eventTaken_lA (s : State) : s.eventTaken.lA = s.lA := rfl
@[simp] theorem eventTaken_lB (s : State) : s.eventTaken.lB = s.lB := rfl
@[simp] theorem eventTaken_lC (s : State) : s.eventTaken.lC = s.lC := rfl
@[simp] theorem eventTaken_received (s : State) : s.eventTaken.received = s.received := rfl
@[simp] theorem eventTaken_agenda (s : State) : s.eventTaken.agenda = s.agenda.tail := rfl

end Sys2Proof.Machine
end

