-- ==== Sys2Proof/Laws/PerInstr.lean ====
section
/-! SUPPORT. Facts about every command as a word, one lemma per constructor. -/

namespace Sys2Proof.Laws.EncodingIsLegal

/-- The command's word is legal by R82: its RSVD field is 0 and its OPCODE is one of the six. -/
def Statement (i : Instr) : Prop := legal (encode i) = true

theorem add : Statement .add := by unfold Statement; decide
theorem sub : Statement .sub := by unfold Statement; decide
theorem mul : Statement .mul := by unfold Statement; decide
theorem div : Statement .div := by unfold Statement; decide
theorem sqrt : Statement .sqrt := by unfold Statement; decide
theorem solve : Statement .solve := by unfold Statement; decide

end Sys2Proof.Laws.EncodingIsLegal
end

