-- ==== Sys2Proof/Laws/Run.lean ====
section
/-! SUPPORT. Runs of several steps, one step at a time. -/

namespace Sys2Proof.Machine

theorem run_zero (s : State) : Sys2Proof.core.run 0 s = .next s := by
  simp [Host.Core.run]

/-- A run of any machine whose first step answers a next state goes on from there. -/
theorem core_run_succ (M : Host.Core) {k : Nat} {s u : M.State} (h : M.step s = .next u) :
    M.run (k + 1) s = M.run k u := by
  simp [Host.Core.run, h]

/-- A run of the block whose first step answers a next state goes on from there. -/
theorem run_succ_of_next {k : Nat} {s u : State} (h : step s = .next u) :
    Sys2Proof.core.run (k + 1) s = Sys2Proof.core.run k u :=
  core_run_succ Sys2Proof.core h

end Sys2Proof.Machine
end

