-- ==== Sys2Proof/Tests/Slice0.lean ====
section
/-! SUPPORT. Small tests, each of one operation or one step, with expected values from the spec's own tables
(spec/95_test_vectors.md, spec/20_memory.md R58, spec/30_encoding.md R83), and a witness for the
hypotheses of every statement that has any. -/

namespace Sys2Proof.Tests

open Sys2Proof Sys2Proof.Machine

/-! ## States to test on -/

/-- A running command: the word `w` latched with these operands, the sequencer next to move. -/
def running (w : Word) (x y z : Int) : State :=
  { State.reset with busy := true, lOp := w, lA := enc x, lB := enc y, lC := enc z }

/-- The reset state with these events to come. -/
def coming (es : List Event) : State := { State.reset with agenda := es }

/-- RES as an integer, ERRCODE and ITER after one step; `none` if the step answers no next state. -/
def report (s : State) : Option (Int × Nat × Nat) :=
  match step s with
  | .next u => some (val u.res, u.errcode.toNat, u.iter.toNat)
  | .fault _ => none
  | .refused _ => none

/-! ## Ill-formed terms are refused by each check -/

theorem test_wf_every_command : ∀ i ∈ [Instr.add, .sub, .mul, .div, .sqrt, .solve], i.wf = true := by decide
theorem test_wf_offset_aligned : offsetWf 0x02 = false := by decide
theorem test_wf_offset_in_space : offsetWf 0x100 = false := by decide
theorem test_wf_stmt : Stmt.wf (.wr 0x21 0#32) = false ∧ Stmt.wf (.rd 0x104) = false := by decide
theorem test_wf_ld256_range : Pseudo.wf (.ld256 .opa (2 ^ 255)) = false ∧
    Pseudo.wf (.ld256 .opb (-(2 ^ 255) - 1)) = false := by decide
theorem test_wf_ld128_range : Pseudo.wf (.ld128 .opa (2 ^ 127)) = false ∧
    Pseudo.wf (.ld128 .opc (-(2 ^ 127) - 1)) = false := by decide
theorem test_wf_wait_reads_status : Pseudo.wf (.wait 0) = false ∧ Pseudo.wf (.run .mul 0) = false := by decide

theorem test_wf_transfer_width :
    Transfer.wf { addr := Config.base, bits := 16, access := .read } = false := by
  rw [← Bool.not_eq_true, transfer_wf_iff]; simp
theorem test_wf_transfer_aligned :
    Transfer.wf { addr := Config.base + 2, bits := 32, access := .read } = false := by
  rw [← Bool.not_eq_true, transfer_wf_iff]; simp
theorem test_wf_transfer_in_space :
    Transfer.wf { addr := Config.base + 256, bits := 32, access := .read } = false := by
  rw [← Bool.not_eq_true, transfer_wf_iff]; simp

/-! ## Command words, written out from R80 and R83: RSVD [31:8] then OPCODE [7:0] -/

theorem test_decode_add : decode 0b00000000000000000000000000000001#32 = .ok .add := by decide
theorem test_decode_sub : decode 0b00000000000000000000000000000010#32 = .ok .sub := by decide
theorem test_decode_mul : decode 0b00000000000000000000000000000011#32 = .ok .mul := by decide
theorem test_decode_div : decode 0b00000000000000000000000000000100#32 = .ok .div := by decide
theorem test_decode_sqrt : decode 0b00000000000000000000000000000101#32 = .ok .sqrt := by decide
theorem test_decode_solve : decode 0b00000000000000000000000000000110#32 = .ok .solve := by decide
/-- V8: the illegal words. -/
theorem test_decode_illegal : decode 0x00000000#32 = .error .unknownOpcode ∧
    decode 0x00000007#32 = .error .unknownOpcode ∧ decode 0x000000FF#32 = .error .unknownOpcode ∧
    decode 0x00000103#32 = .error .reservedBits ∧ decode 0x80000005#32 = .error .reservedBits := by decide
theorem test_decodeTableWord : [1, 2, 3, 4, 5, 6].map (decodeTableWord 32) =
    [some .add, some .sub, some .mul, some .div, some .sqrt, some .solve] := by decide
theorem test_encode_words : [Instr.add, .sub, .mul, .div, .sqrt, .solve].map (fun i => (encode i).toNat) =
    [1, 2, 3, 4, 5, 6] := by decide

/-! ## One step of each command (V1 to V7) -/

theorem test_add_signed : report (running 1#32 (10 ^ 27) (-3 * 10 ^ 27) 0) = some (-2 * 10 ^ 27, 0, 0) := by
  decide
theorem test_add_overflow : report (running 1#32 (2 ^ 255 - 1) 1 0) = some (0, 5, 0) := by decide
theorem test_sub_least : report (running 2#32 (-(2 ^ 255)) (-1) 0) = some (-(2 ^ 255) + 1, 0, 0) := by decide
theorem test_sub_overflow : report (running 2#32 0 (-(2 ^ 255)) 0) = some (0, 5, 0) := by decide
theorem test_mul_truncates : report (running 3#32 (-(10 ^ 27) - 1) (5 * 10 ^ 26) 0) =
    some (-500000000000000000000000000, 0, 0) := by decide
theorem test_mul_overflow : report (running 3#32 (-(2 ^ 255)) (-(10 ^ 27)) 0) = some (0, 5, 0) := by decide
theorem test_div_truncates : report (running 4#32 (-(10 ^ 27)) 3 0) =
    some (-333333333333333333333333333333333333333333333333333333, 0, 0) := by decide
theorem test_div_zero_before_overflow : report (running 4#32 (2 ^ 255 - 1) 0 0) = some (0, 2, 0) := by decide
theorem test_sqrt_two : report (running 5#32 (2 * 10 ^ 27) 0 0) =
    some (1414213562373095048801688724, 0, 7) := by decide
theorem test_sqrt_overflow : report (running 5#32 (sqrtMax + 1) 0 0) = some (0, 5, 1) := by decide
theorem test_solve_negative_a : report (running 6#32 (-(10 ^ 27)) (3 * 10 ^ 27) (-2 * 10 ^ 27)) =
    some (2 * 10 ^ 27, 0, 7) := by decide
theorem test_solve_wraps_a : report (running 6#32 (2 ^ 128 + 10 ^ 27) (3 * 10 ^ 27) (2 * 10 ^ 27)) =
    some (0, 4, 7) := by decide
theorem test_illegal_word : report (running 0x105#32 (4 * 10 ^ 27) 0 0) = some (0, 6, 0) := by decide

/-- The first step after reset runs the placed command: SQRT of 0 (R130). -/
theorem test_withFetchWord : report (State.reset.withFetchWord 32 5) = some (0, 0, 0) := by decide

/-! ## Registers (V9, V8, P3) -/

theorem test_read_id : State.reset.readWord 0x00 = 0x31515846#32 := by decide
theorem test_write_ctrl : ((State.reset.writeWord 0x04 0xFFFFFFFF#32).readWord 0x04) = 1#32 := by decide
theorem test_write_scaleExp : ((State.reset.writeWord 0x10 0x12345678#32).readWord 0x10) = 0x78#32 := by decide
theorem test_write_opa_word : (State.reset.writeWord 0x24 1#32).readWord 0x24 = 1#32 ∧
    (State.reset.writeWord 0x24 1#32).readWord 0x20 = 0#32 := by decide
theorem test_status_illegal : (State.reset.finishIllegal).readWord 0x0C = 0x00000606#32 := by decide
theorem test_status_ack : ((running 5#32 (-1) 0 0).finish (.error .negativeSquareRoot) 0).statusWord =
    0x00000106#32 ∧ (((running 5#32 (-1) 0 0).finish (.error .negativeSquareRoot) 0).writeWord 0x0C
      0x0000000A#32).statusWord = 0x00000104#32 := by decide
theorem test_cmd_while_busy : ((running 5#32 0 0 0).writeWord 0x08 1#32) =
    { running 5#32 0 0 0 with ignored := true } := by decide
theorem test_reserved_words : [0x18, 0x1C, 0xA0, 0xFC].map State.reset.readWord = [0#32, 0#32, 0#32, 0#32] := by
  decide
theorem test_listing : listing (goCommand .solve) = "W 0x08 0x00000006" := by decide

/-! ## Witnesses: a concrete state and operands that meet all hypotheses of a statement together, clause by
clause at the ends of each range -/

theorem witness_DecodeEncodeRoundTrip : Instr.wf .solve = true ∧ decode 6#32 = .ok .solve := by decide

theorem witness_ReadTransferReturnsRegisterWord :
    ∀ off ∈ [0x00, 0x04, 0x08, 0x0C, 0x10, 0x14, 0x18, 0x1C, 0x20, 0x3C, 0x40, 0x5C, 0x60, 0x7C, 0x80, 0x9C,
      0xA0, 0xFC], off % 4 = 0 ∧ off ≤ 0xFC ∧ (coming [busRead off]).agenda = busRead off :: [] :=
  fun off h => ⟨by revert off; decide, by revert off; decide, rfl⟩

theorem witness_WriteTransferEffect :
    ∀ off ∈ [0x00, 0x04, 0x08, 0x0C, 0x10, 0x14, 0x1C, 0x20, 0x3C, 0x40, 0x5C, 0x60, 0x7C, 0x80, 0xFC],
      off % 4 = 0 ∧ off ≤ 0xFC ∧ (coming [busWrite off 1#32]).agenda = busWrite off 1#32 :: [] ∧
      (coming [busWrite off 1#32]).busy = false :=
  fun off h => ⟨by revert off; decide, by revert off; decide, rfl, rfl⟩

/-- The clauses of CMD writes: an idle state, and a busy one. -/
theorem witness_CommandWriteStartsOrIsIgnored :
    (coming [busRead 0x08]).agenda = busRead 0x08 :: [] ∧
    (coming [busWrite 0x08 1#32]).agenda = busWrite 0x08 1#32 :: [] ∧
    (coming [busWrite 0x08 1#32]).busy = false ∧
    ({ coming [busWrite 0x08 1#32] with busy := true } : State).agenda = busWrite 0x08 1#32 :: [] ∧
    ({ coming [busWrite 0x08 1#32] with busy := true } : State).busy = true := ⟨rfl, rfl, rfl, rfl, rfl⟩

theorem witness_ReservedOffsets :
    ∀ off ∈ [0x18, 0x1C, 0xA0, 0xFC], off % 4 = 0 ∧
      ((0x18 ≤ off ∧ off ≤ 0x1F) ∨ (0xA0 ≤ off ∧ off ≤ 0xFF)) ∧
      (coming [busRead off]).agenda = busRead off :: [] ∧
      (coming [busWrite off 1#32]).agenda = busWrite off 1#32 :: [] :=
  fun off h => ⟨by revert off; decide, by revert off; decide, rfl, rfl⟩

/-- A narrow transfer, and a misaligned one. -/
theorem witness_MalformedTransfers :
    (coming [.host ⟨Config.base, 16, .read⟩]).agenda = .host ⟨Config.base, 16, .read⟩ :: [] ∧
    (⟨Config.base, 16, .read⟩ : Transfer).bits ≠ 32 ∧
    (coming [.host ⟨Config.base + 2, 32, .read⟩]).agenda = .host ⟨Config.base + 2, 32, .read⟩ :: [] ∧
    ∃ off, (⟨Config.base + 2, 32, .read⟩ : Transfer).addr = Config.base + off ∧ off % 4 ≠ 0 :=
  ⟨rfl, by decide, rfl, 2, rfl, by decide⟩

theorem witness_TransferWhileResetAsserted :
    (coming [.hostInReset ⟨Config.base, 32, .read⟩]).agenda = .hostInReset ⟨Config.base, 32, .read⟩ :: [] ∧
    (coming [.reset]).agenda = .reset :: [] := ⟨rfl, rfl⟩

/-- An aligned 32-bit transfer inside the block is well formed. -/
theorem stmtTransfer_wf {off : Nat} (h : off < 256) (h4 : off % 4 = 0) (w : Word) :
    (stmtTransfer (.wr off w)).wf = true := by
  rw [transfer_wf_iff]
  exact ⟨rfl, Nat.le_add_right _ _, by simpa [stmtTransfer] using h, by simpa [stmtTransfer] using h4⟩

theorem witness_AcceptableAgenda : (coming [busWrite 0x08 1#32, .sequencer, .reset]).agendaWf = true := by
  simp [State.agendaWf, coming, Event.wf, busWrite, stmtTransfer_wf (off := 0x08)]

theorem witness_LittleEndian : (0x9C % 4 = 0 ∧ 0x9C ≤ 0xFC ∧ 3 < 4) ∧ (31 < 32 ∧ 7 < 8) ∧
    ({ State.reset with opa := enc (-3 * 10 ^ 27) } : State).opa.toInt = -3 * 10 ^ 27 := by decide

theorem witness_IdempotentWrites : ∀ off ∈ [0x00, 0x04, 0x0C, 0xFC],
    off % 4 = 0 ∧ off ≤ 0xFC ∧ off ≠ 0x08 := by decide

/-- A step of each kind that changes BUSY: a start, a completion, a reset. -/
theorem witness_BusyChanges :
    (coming [busWrite 0x08 1#32]).busy = false ∧
    (running 1#32 1 1 0).busy = true ∧ (running 1#32 1 1 0).sequencerMoves ∧
    ({ running 1#32 1 1 0 with agenda := [.reset] } : State).agenda = .reset :: [] ∧
    (∃ u, step (running 1#32 1 1 0) = .next u ∧ u.busy = false) ∧
    (∃ u, step (coming [busWrite 0x08 1#32]) = .next u ∧ u.busy = true) :=
  ⟨rfl, rfl, .inl rfl, rfl, ⟨_, rfl, rfl⟩,
    ⟨_, transfer_at { coming [busWrite 0x08 1#32] with agenda := [] } (off := 0x08) (by decide) (by decide)
      (.write 1#32), rfl⟩⟩

/-- A completion that raises DONE, and a STATUS write that lowers it. -/
theorem witness_DoneChanges :
    (running 1#32 1 1 0).busy = true ∧ (running 1#32 1 1 0).sequencerMoves ∧
    (0x0000000A#32)[1] = true ∧
    (∃ u, step (running 1#32 1 1 0) = .next u ∧ (running 1#32 1 1 0).done ≠ u.done) ∧
    (∃ u, step { coming [busWrite 0x0C 0xA#32] with done := true } = .next u ∧ true ≠ u.done) :=
  ⟨rfl, .inl rfl, by decide, ⟨_, rfl, by decide⟩,
    ⟨_, transfer_at { coming [] with done := true } (off := 0x0C) (by decide) (by decide) (.write 0xA#32),
      by decide⟩⟩

/-- A CMD write while busy that raises IGNORED, and a STATUS write that lowers it. -/
theorem witness_IgnoredIsSticky :
    (0x0000000A#32)[3] = true ∧
    (∃ u, step { running 5#32 1 0 0 with agenda := [busWrite 0x08 1#32] } = .next u ∧ u.ignored = true) ∧
    (∃ u, step { coming [busWrite 0x0C 0xA#32] with ignored := true } = .next u ∧ u.ignored = false) :=
  ⟨by decide,
    ⟨_, transfer_at { running 5#32 1 0 0 with agenda := [] } (off := 0x08) (by decide) (by decide)
      (.write 1#32), rfl⟩,
    ⟨_, transfer_at { coming [] with ignored := true } (off := 0x0C) (by decide) (by decide)
      (.write 0xA#32), by decide⟩⟩

/-- A completion that changes RES, a reset that does, a completion that changes ERRCODE, and a start that
does. -/
theorem witness_ResultChanges :
    (∃ u, step (running 1#32 1 1 0) = .next u ∧ u.res ≠ (running 1#32 1 1 0).res) ∧
    (∃ u, step { coming [.reset] with res := 1#256 } = .next u ∧ u.res ≠ 1#256) ∧
    (∃ u, step (running 4#32 1 0 0) = .next u ∧ u.errcode ≠ (running 4#32 1 0 0).errcode) ∧
    (∃ u, step { coming [busWrite 0x08 1#32] with errcode := 6#4 } = .next u ∧ u.errcode ≠ 6#4) :=
  ⟨⟨_, rfl, by decide⟩, ⟨_, rfl, by decide⟩, ⟨_, rfl, by decide⟩,
    ⟨_, transfer_at { coming [] with errcode := 6#4 } (off := 0x08) (by decide) (by decide) (.write 1#32),
      by decide⟩⟩

theorem witness_Interrupt :
    ({ coming [busWrite 0x04 1#32] with done := true } : State).agenda = busWrite 0x04 1#32 :: [] ∧
    (1#32)[0] = true ∧ ({ coming [busWrite 0x04 1#32] with done := true } : State).done = true ∧
    (coming [busWrite 0x04 0#32]).agenda = busWrite 0x04 0#32 :: [] ∧ (0#32)[0] = false ∧
    (coming [busWrite 0x0C 2#32]).agenda = busWrite 0x0C 2#32 :: [] ∧ (2#32)[1] = true ∧
    (coming [busWrite 0x08 2#32]).busy = false ∧ (running 1#32 1 1 0).busy = true ∧
    (running 1#32 1 1 0).sequencerMoves :=
  ⟨rfl, by decide, rfl, rfl, by decide, rfl, by decide, rfl, rfl, .inl rfl⟩

/-- The register invariant is met by an idle state with an error recorded, and the step completes. -/
theorem witness_RegistersLegal :
    ({ running 4#32 1 0 0 with errcode := 0#4 } : State).registersLegal ∧
    (∃ u, step (running 4#32 1 0 0) = .next u ∧ u.errcode = 2#4) := by
  refine ⟨?_, _, rfl, by decide⟩
  unfold State.registersLegal
  decide

/-- The report invariant is met with DONE = 1 and a result: ADD 1 + 1 completed, and the sequencer idle. -/
theorem witness_ReportHonest :
    ({ running 1#32 1 1 0 with busy := false, done := true, res := 2#256 } : State).reportHonest ∧
    ({ running 1#32 1 1 0 with busy := false, done := true, res := 2#256 } : State).done = true ∧
    ∃ u, step { running 1#32 1 1 0 with busy := false, done := true, res := 2#256 } = .next u := by
  refine ⟨?_, rfl, _, rfl⟩
  unfold State.reportHonest
  decide

/-- A latched command, both ways the sequencer may be the next to move. -/
theorem witness_StepRunsTheLatchedCommand :
    (running 3#32 1 1 0).busy = true ∧ (running 3#32 1 1 0).sequencerMoves ∧
    ({ running 3#32 1 1 0 with agenda := [.sequencer] } : State).sequencerMoves ∧
    decode (running 3#32 1 1 0).lOp = .ok .mul ∧ Instr.wf .mul = true :=
  ⟨rfl, .inl rfl, .inr ⟨[], rfl⟩, rfl, rfl⟩

theorem witness_CompletionIsTheLatchedOutcome :
    (running 3#32 1 1 0).sequencerMoves ∧ (running 3#32 1 1 0).busy = true ∧
    (coming []).sequencerMoves ∧ (coming []).busy = false := ⟨.inl rfl, rfl, .inl rfl, rfl⟩

/-- An illegal OPCODE, and an illegal RSVD. -/
theorem witness_IllegalWord : ∀ w ∈ [0x00000007#32, 0x00000101#32],
    (running w 1 1 0).busy = true ∧ (running w 1 1 0).sequencerMoves ∧
    ¬ ((running w 1 1 0).lOp.extractLsb' 8 24 = 0#24 ∧
      ((running w 1 1 0).lOp.extractLsb' 0 8).toNat ∈ [0x01, 0x02, 0x03, 0x04, 0x05, 0x06]) :=
  fun w h => ⟨rfl, .inl rfl, by
    change ¬ (w.extractLsb' 8 24 = 0#24 ∧ (w.extractLsb' 0 8).toNat ∈ [0x01, 0x02, 0x03, 0x04, 0x05, 0x06])
    simp only [List.mem_cons, List.not_mem_nil, or_false] at h
    rcases h with rfl | rfl <;> simp⟩

/-- An operand write and a second CMD write while the first command runs. -/
theorem witness_HostTransfersCannotChange :
    (coming (busWrite 0x08 1#32 :: ([stmtTransfer (.wr 0x20 7#32), stmtTransfer (.wr 0x08 2#32)].map
      Event.host ++ .sequencer :: []))).busy = false ∧
    ∀ t ∈ [stmtTransfer (.wr 0x20 7#32), stmtTransfer (.wr 0x08 2#32)], t.wf = true := by
  refine ⟨rfl, fun t h => ?_⟩
  simp only [List.mem_cons, List.not_mem_nil, or_false] at h
  rcases h with rfl | rfl
  · exact stmtTransfer_wf (by decide) (by decide) _
  · exact stmtTransfer_wf (by decide) (by decide) _

theorem witness_EveryStartedCommandCompletes :
    ({ running 1#32 1 1 0 with agenda := [busWrite 0x20 7#32, .sequencer] } : State).busy = true ∧
    ({ running 1#32 1 1 0 with agenda := [busWrite 0x20 7#32, .sequencer] } : State).agendaWf = true ∧
    Event.reset ∉ [busWrite 0x20 7#32, .sequencer] := by
  refine ⟨rfl, ?_, by simp [busWrite]⟩
  simp [State.agendaWf, Event.wf, busWrite, stmtTransfer_wf (off := 0x20)]

/-- The CMD write while BUSY = 1 of the last clause about BUSY. -/
theorem witness_BusyCommandWrite :
    ({ running 1#32 1 1 0 with agenda := [busWrite 0x08 2#32] } : State).agenda = busWrite 0x08 2#32 :: [] ∧
    ({ running 1#32 1 1 0 with agenda := [busWrite 0x08 2#32] } : State).busy = true := ⟨rfl, rfl⟩

theorem witness_ScaleExponent : (coming [busWrite 0x10 0x112#32]).agenda = busWrite 0x10 0x112#32 :: [] := rfl

theorem witness_Tdiv : (-7 : Int) ≠ 0 ∧ tdiv 8 (-7) = -1 := by decide

theorem witness_ValueAndPattern : inRange (2 ^ 255 - 1) ∧ inRange (-(2 ^ 255)) ∧ 7 < 8 ∧ 31 < 32 := by
  unfold inRange; decide

/-- Each clause of ADD and SUB at the end of its range. -/
theorem witness_AddSub :
    inRange ((running 1#32 (2 ^ 255 - 2) 1 0).lA.toInt + (running 1#32 (2 ^ 255 - 2) 1 0).lB.toInt) ∧
    ¬ inRange ((running 1#32 (2 ^ 255 - 1) 1 0).lA.toInt + (running 1#32 (2 ^ 255 - 1) 1 0).lB.toInt) ∧
    inRange ((running 2#32 (-(2 ^ 255) + 1) 1 0).lA.toInt - (running 2#32 (-(2 ^ 255) + 1) 1 0).lB.toInt) ∧
    ¬ inRange ((running 2#32 (-(2 ^ 255)) 1 0).lA.toInt - (running 2#32 (-(2 ^ 255)) 1 0).lB.toInt) := by
  unfold inRange; decide

/-- Each clause of MUL at the end of its range. -/
theorem witness_Mul :
    (running 3#32 (2 ^ 255 - 1) (10 ^ 27) 0).lA.toInt = 2 ^ 255 - 1 ∧
    (running 3#32 (2 ^ 255 - 1) (10 ^ 27) 0).lB.toInt = 10 ^ 27 ∧
    inRange (Int.tdiv ((2 ^ 255 - 1) * 10 ^ 27) (10 ^ 27)) ∧
    (running 3#32 (-(2 ^ 255)) (-(10 ^ 27)) 0).lA.toInt = -(2 ^ 255) ∧
    (running 3#32 (-(2 ^ 255)) (-(10 ^ 27)) 0).lB.toInt = -(10 ^ 27) ∧
    ¬ inRange (Int.tdiv (-(2 ^ 255) * -(10 ^ 27)) (10 ^ 27)) := by
  unfold inRange; decide

/-- Each clause of DIV at the end of its range. -/
theorem witness_Div :
    (running 4#32 (2 ^ 255 - 1) 0 0).lB.toInt = 0 ∧ (10 ^ 27 : Int) ≠ 0 ∧
    inRange (Int.tdiv ((2 ^ 255 - 1) * 10 ^ 27) (10 ^ 27)) ∧ (1 : Int) ≠ 0 ∧
    ¬ inRange (Int.tdiv ((2 ^ 255 - 1) * 10 ^ 27) 1) ∧
    (running 4#32 (2 ^ 255 - 1) 1 0).lA.toInt = 2 ^ 255 - 1 := by
  unfold inRange; decide

theorem witness_ExactForms : mul 7 (-7) = .ok 0 ∧ div (7 * 10 ^ 27) (-2 * 10 ^ 27) =
    .ok (-3500000000000000000000000000) ∧ div (7 * 10 ^ 27) (- (-2 * 10 ^ 27)) =
    .ok 3500000000000000000000000000 := by decide

theorem witness_ScaleMultiple : inRange ((-1) * (2 ^ 255 - 1)) ∧ ¬ inRange ((-1) * -(2 ^ 255)) := by
  unfold inRange; decide

/-- R110's own example. -/
theorem witness_RoundTrip : (3 : Int) ≠ 0 ∧ div 1 3 = .ok 333333333333333333333333333 ∧
    mul 333333333333333333333333333 3 = .ok 0 := by decide

theorem witness_SqrtChecks : (-1 : Int) < 0 ∧ (running 5#32 (-1) 0 0).lA.toInt < 0 ∧
    (running 5#32 0 0 0).lA.toInt = 0 := by decide

/-- A Newton step in range, and one out of range. -/
theorem witness_NewtonRecurrence :
    (1 : Int) ≤ 1 ∧ inRange (1 * 1 / 10 ^ 27) ∧ inRange (1 * 1 / 10 ^ 27 + 1) ∧ inRange (2 * 1) ∧
    inRange ((1 * 1 / 10 ^ 27 + 1) * 10 ^ 27 / (2 * 1)) ∧ ¬ inRange (2 ^ 200 * 2 ^ 200 / 10 ^ 27) := by
  unfold inRange; decide

theorem witness_NewtonEstimates : (1 : Int) ≤ 1 ∧ newtonStep 1 1 = .ok 500000000000000000000000000 ∧
    newtonStep 1 (seed 1) = .ok 500000000000000000000000000 := by decide

/-- A first step that succeeds, and one that raises. -/
theorem witness_SqrtFollowsTheNewtonLoop : (1 : Int) ≤ 1 ∧
    newtonStep 1 (1 / 2 + 1) = .ok 500000000000000000000000000 ∧ (1 : Int) ≤ sqrtMax + 1 ∧
    newtonStep (sqrtMax + 1) ((sqrtMax + 1) / 2 + 1) = .error .overflow := by decide

theorem witness_SqrtIsAtMostTheTrueRoot : sqrt (4 * 10 ^ 27) = (.ok (2 * 10 ^ 27), 2) := by decide

theorem witness_FirstNewtonStepDescends : (4 * 10 ^ 27 : Int) ≤ 4 * 10 ^ 27 ∧
    newtonStep (4 * 10 ^ 27) (seed (4 * 10 ^ 27)) = .ok (2 * 10 ^ 27) := by decide

theorem witness_SqrtOverflowThreshold : (sqrt (sqrtMax + 1)).1 = .error .overflow ∧
    15217890079594884195896944943995857553442579439691879 < sqrtMax + 1 := by decide

/-- Each clause of the SQRT command at the ends of its range. -/
theorem witness_SqrtCommandCompletes : (running 5#32 (-1) 0 0).lA.toInt < 0 ∧
    (running 5#32 (-(2 ^ 255)) 0 0).lA.toInt < 0 ∧ 0 ≤ (running 5#32 0 0 0).lA.toInt ∧
    (running 5#32 sqrtMax 0 0).lA.toInt ≤ sqrtMax ∧ 0 ≤ (running 5#32 sqrtMax 0 0).lA.toInt ∧
    sqrtMax < (running 5#32 (sqrtMax + 1) 0 0).lA.toInt := by decide

theorem witness_SolveErrors : coefRange (2 ^ 127 - 1) ∧ coefRange (-(2 ^ 127)) ∧
    (solve (2 ^ 127 - 1) 0 (2 ^ 127 - 1)).1 = .error .negativeDiscriminant := by
  unfold coefRange; decide

theorem witness_SolveWithZero : coefRange (-(2 ^ 127)) ∧ coefRange (2 ^ 127 - 1) := by
  unfold coefRange; decide

theorem witness_NegativeDiscriminant :
    (solve (10 ^ 27) 0 (10 ^ 27)).1 = .error .negativeDiscriminant := by decide

/-- A positive and a negative leading coefficient. -/
theorem witness_SelectedRoot : (0 : Int) ≤ 10 ^ 27 ∧ (0 : Int) < 10 ^ 27 ∧ -(10 ^ 27) < (0 : Int) ∧
    sub (- (-3 * 10 ^ 27)) (10 ^ 27) = .ok (2 * 10 ^ 27) ∧
    div (2 * 10 ^ 27) (2 * 10 ^ 27) = .ok (10 ^ 27) ∧
    add (- (-3 * 10 ^ 27)) (10 ^ 27) = .ok (4 * 10 ^ 27) ∧
    div (4 * 10 ^ 27) (2 * 10 ^ 27) = .ok (2 * 10 ^ 27) ∧
    sub (- (3 * 10 ^ 27)) (10 ^ 27) = .ok (-4 * 10 ^ 27) ∧
    div (-4 * 10 ^ 27) (2 * -(10 ^ 27)) = .ok (2 * 10 ^ 27) ∧
    add (- (3 * 10 ^ 27)) (10 ^ 27) = .ok (-2 * 10 ^ 27) ∧
    div (-2 * 10 ^ 27) (2 * -(10 ^ 27)) = .ok (10 ^ 27) := by decide

/-- A double root that is returned, and one that is negative. -/
theorem witness_ZeroDiscriminant : coefRange (-2 * 10 ^ 27) ∧ coefRange (2 * 10 ^ 27) ∧
    discriminant (10 ^ 27) (-2 * 10 ^ 27) (10 ^ 27) = .ok 0 ∧
    div (- (-2 * 10 ^ 27)) (2 * 10 ^ 27) = .ok (10 ^ 27) ∧
    discriminant (10 ^ 27) (2 * 10 ^ 27) (10 ^ 27) = .ok 0 ∧
    div (- (2 * 10 ^ 27)) (2 * 10 ^ 27) = .ok (-(10 ^ 27)) := by
  unfold coefRange; decide

/-- The coefficients of each clause of the SOLVE command, read from the latches: a negative discriminant,
a zero leading coefficient, a negative root and a returned one. -/
theorem witness_SolveCommandIsThePipeline :
    ((running 6#32 (10 ^ 27) 0 (10 ^ 27)).lA.extractLsb' 0 128).toInt = 10 ^ 27 ∧
    Int.tdiv (0 * 0) (10 ^ 27) - 4 * Int.tdiv (10 ^ 27 * 10 ^ 27) (10 ^ 27) < 0 ∧
    ((running 6#32 0 (10 ^ 27) (-(10 ^ 27))).lA.extractLsb' 0 128).toInt = 0 ∧
    0 ≤ Int.tdiv (10 ^ 27 * 10 ^ 27) (10 ^ 27) - 4 * Int.tdiv (0 * -(10 ^ 27)) (10 ^ 27) ∧
    sqrt (10 ^ 27) = (.ok (10 ^ 27), 7) ∧
    max (Int.tdiv ((-(3 * 10 ^ 27) - 10 ^ 27) * 10 ^ 27) (2 * 10 ^ 27))
      (Int.tdiv ((-(3 * 10 ^ 27) + 10 ^ 27) * 10 ^ 27) (2 * 10 ^ 27)) < 0 ∧
    0 ≤ max (Int.tdiv ((- -(3 * 10 ^ 27) - 10 ^ 27) * 10 ^ 27) (2 * 10 ^ 27))
      (Int.tdiv ((- -(3 * 10 ^ 27) + 10 ^ 27) * 10 ^ 27) (2 * 10 ^ 27)) := by
  decide

theorem witness_Load256 : inRange (-3 * 10 ^ 27) ∧
    (coming (stmtEvents (expand (.ld256 .opa (-3 * 10 ^ 27))) ++ [])).agenda =
      stmtEvents (expand (.ld256 .opa (-3 * 10 ^ 27))) ++ [] ∧
    (coming (stmtEvents (expand (.ld256 .opb (-3 * 10 ^ 27))) ++ [])).agenda =
      stmtEvents (expand (.ld256 .opb (-3 * 10 ^ 27))) ++ [] ∧
    (coming (stmtEvents (expand (.ld256 .opc (-3 * 10 ^ 27))) ++ [])).agenda =
      stmtEvents (expand (.ld256 .opc (-3 * 10 ^ 27))) ++ [] :=
  ⟨by unfold inRange; decide, rfl, rfl, rfl⟩

theorem witness_Read256 : (coming (stmtEvents (expand .rd256) ++ [])).agenda =
    stmtEvents (expand .rd256) ++ [] := rfl

theorem witness_GoCommand : Instr.wf .add = true ∧
    (coming (stmtEvents (expand (.go .add)) ++ .sequencer :: [])).busy = false ∧
    (coming (stmtEvents (expand (.go .add)) ++ .sequencer :: [])).agenda =
      stmtEvents (expand (.go .add)) ++ .sequencer :: [] := ⟨rfl, rfl, rfl⟩

theorem witness_ResetEvent : ({ running 5#32 1 0 0 with agenda := [.reset] } : State).agenda =
    .reset :: [] := rfl

theorem witness_FetchWord : Instr.wf .div = true := rfl

end Sys2Proof.Tests
end

section
/-! PROOFS. The numeric conventions (spec/00_scope.md R8, R10, R11, R12). -/

namespace Sys2Proof.Machine

/-! ## Truncated division (R8) -/

/-- The model's quotient is R8's formula over the integers: a sign times the floor of the magnitudes. -/
theorem tdiv_eq_sign_mul_abs_div (n d : Int) :
    tdiv n d = (if (0 ≤ n ↔ 0 < d) then 1 else -1) * (|n| / |d|) := by
  have hq : ((n.natAbs / d.natAbs : Nat) : Int) = |n| / |d| := by
    rw [Int.natCast_ediv, Int.natCast_natAbs, Int.natCast_natAbs]
  unfold tdiv
  rw [hq]
  split
  · exact (one_mul _).symm
  · exact (neg_one_mul _).symm

/-- The remainder R8 speaks of is the library's truncated remainder. -/
theorem sub_mul_tdiv_eq_tmod (n d : Int) : n - d * tdiv n d = Int.tmod n d := by
  rw [tdiv_eq_int_tdiv, Int.tmod_def]

theorem abs_tmod_lt (n : Int) {d : Int} (hd : d ≠ 0) : |Int.tmod n d| < |d| := by
  rw [Int.abs_eq_natAbs, Int.abs_eq_natAbs, Int.natAbs_tmod]
  exact_mod_cast Nat.mod_lt _ (Int.natAbs_pos.2 hd)

theorem tmod_eq_zero_or_sign_eq (n d : Int) :
    Int.tmod n d = 0 ∨ (Int.tmod n d).sign = n.sign := by
  by_cases h : d ∣ n
  · exact .inl (Int.tmod_eq_zero_of_dvd h)
  · exact .inr (by rw [Int.sign_tmod, if_neg h])

/-- `mul` divides by SCALE, so its `tdiv` never sees a zero divisor (R3). -/
theorem scale_ne_zero : Config.scale ≠ 0 := by decide

/-- Settles O32: R8's formula, and the two facts about the library's truncated remainder. -/
theorem tdivTruncatesTowardZero : Obligations.TdivTruncatesTowardZero := by
  unfold Obligations.TdivTruncatesTowardZero
  refine ⟨fun n d hd => ⟨tdiv_eq_sign_mul_abs_div n d, ?_⟩, div_zero, scale_ne_zero⟩
  rw [sub_mul_tdiv_eq_tmod]
  exact ⟨abs_tmod_lt n hd, tmod_eq_zero_or_sign_eq n d⟩

/-! ## Wrapping to 128 bits (R10) -/

/-- Wrapping is the library's balanced remainder modulo 2^128. -/
theorem wrap128_eq_bmod (v : Int) : wrap128 v = v.bmod (2 ^ 128) := BitVec.toInt_ofInt v

theorem dvd_wrap128_sub (v : Int) : (2 : Int) ^ 128 ∣ wrap128 v - v := by
  rw [wrap128_eq_bmod]
  exact_mod_cast Int.dvd_bmod_sub_self (x := v) (m := 2 ^ 128)

/-- Every wrapped value is a legal SOLVE coefficient (R6). -/
theorem coefRange_wrap128 (v : Int) : coefRange (wrap128 v) :=
  ⟨BitVec.le_toInt _, BitVec.toInt_le⟩

/-- Settles O33: congruence is the balanced remainder's, the range is that of a 128-bit signed value. -/
theorem wrap128IsTwosComplementTruncation : Obligations.Wrap128IsTwosComplementTruncation := by
  unfold Obligations.Wrap128IsTwosComplementTruncation
  exact fun v => ⟨rfl, dvd_wrap128_sub v, coefRange_wrap128 v⟩

/-! ## SCALE_EXP (R12) -/

/-- A command's outcome and step count are a function of the three operand latches alone (R81, R184). -/
theorem exec_of_latches_eq (i : Instr) {s t : State} (hA : t.lA = s.lA) (hB : t.lB = s.lB)
    (hC : t.lC = s.lC) :
    ∃ r n, exec i s = .next (s.finish r n) ∧ exec i t = .next (t.finish r n) := by
  have hx : t.operandX = s.operandX := congrArg val hA
  have hy : t.operandY = s.operandY := congrArg val hB
  cases i with
  | add => exact ⟨_, _, rfl, by simp only [exec, execAdd, hx, hy]⟩
  | sub => exact ⟨_, _, rfl, by simp only [exec, execSub, hx, hy]⟩
  | mul => exact ⟨_, _, rfl, by simp only [exec, execMul, hx, hy]⟩
  | div => exact ⟨_, _, rfl, by simp only [exec, execDiv, hx, hy]⟩
  | sqrt => exact ⟨_, _, rfl, by simp only [exec, execSqrt, hx]⟩
  | solve =>
    refine ⟨_, _, rfl, ?_⟩
    simp only [exec, execSolve, State.coefA, State.coefB, State.coefC, hA, hB, hC]

/-- A host write at SCALE_EXP's offset is the SCALE_EXP write of R26. -/
theorem writeWord_scaleExp (s : State) (w : Word) :
    s.writeWord 0x10 w = { s with scaleExp := w.extractLsb' 0 8 } := by
  have hw : w.setWidth 8 = w.extractLsb' 0 8 := BitVec.setWidth_eq_extractLsb' (by decide)
  rw [← hw]
  rfl

/-- Settles O31: a completion is a function of the operand latches, and SCALE_EXP is none of them. -/
theorem scaleExponentHasNoEffect : Obligations.ScaleExponentHasNoEffect := by
  unfold Obligations.ScaleExponentHasNoEffect
  refine ⟨by decide, fun s w rest ha => ?_, fun i s v => ?_⟩
  · rw [step_of_busWrite ha (by decide) (by decide), writeWord_scaleExp]
  · obtain ⟨r, n, hs, ht⟩ := exec_of_latches_eq i (s := s) (t := { s with scaleExp := v }) rfl rfl rfl
    exact ⟨s.finish r n, hs, ht⟩

/-! ## Patterns and their values (R11) -/

theorem inRange_val (r : Wide) : inRange (val r) := val_range r

@[simp] theorem enc_val (r : Wide) : enc (val r) = r := BitVec.ofInt_toInt

theorem val_enc_of_inRange {v : Int} (h : inRange v) : val (enc v) = v := by
  obtain ⟨hlo, hhi⟩ := h
  exact BitVec.toInt_ofInt_eq_self (by decide) hlo (Int.lt_of_le_sub_one hhi)

/-- Settles O34: `val` and `enc` are inverse on the range, and a word of a register is read bit by bit. -/
theorem valueAndPatternRoundTrip : Obligations.ValueAndPatternRoundTrip := by
  unfold Obligations.ValueAndPatternRoundTrip
  refine ⟨fun r => ⟨rfl, inRange_val r, enc_val r⟩, fun v => val_enc_of_inRange, ?_⟩
  intro r k i _ hi
  rw [getLsbD_getWord, decide_eq_true hi, Bool.true_and]

end Sys2Proof.Machine
end

section
/-! PROOFS. The register map's reserved words, the CMD register, the STATUS flags and the reset values
(spec/10_state.md R24, R29 to R33, R41). -/

namespace Sys2Proof.Machine

/-! ## The register map (R20, R29) -/

/-- An aligned offset that holds a register word is the offset the map gives that word. -/
theorem regOffset_of_regAt {off : Nat} {r : RegName} (h4 : off % 4 = 0) (h : regAt off = some r) :
    off = regOffset r := by
  obtain ⟨k, rfl⟩ := Nat.dvd_of_mod_eq_zero h4
  have hk : 4 * k / 4 = k := by omega
  simp only [regAt, hk] at h
  split_ifs at h with hlt
  · interval_cases k <;> cases h <;> rfl
  all_goals
    cases h
    simp only [regOffset]
    omega

/-- The reserved words lie at 0x18 to 0x1F and from 0xA0 on. -/
theorem regAt_of_reserved {off : Nat} (h : (0x18 ≤ off ∧ off ≤ 0x1F) ∨ 0xA0 ≤ off) :
    regAt off = none := by
  rcases h with ⟨hlo, hhi⟩ | hlo
  · have hi : off / 4 = 6 ∨ off / 4 = 7 := by omega
    rcases hi with hi | hi <;> simp [regAt, hi]
  · simp only [regAt]
    rw [if_neg (by omega), if_neg (by omega), dif_neg (by omega), dif_neg (by omega), dif_neg (by omega),
      dif_neg (by omega)]

/-- Settles O6: no register word stands at a reserved offset. -/
theorem reservedOffsetsReadZeroIgnoreWrites : Obligations.ReservedOffsetsReadZeroIgnoreWrites := by
  unfold Obligations.ReservedOffsetsReadZeroIgnoreWrites
  intro s off w rest h4 hoff
  have hlt : off < 256 := by omega
  have hnone : regAt off = none := regAt_of_reserved (by omega)
  refine ⟨fun ha => ?_, fun ha => ?_⟩
  · rw [step_of_busRead ha h4 hlt, State.readWord, hnone, State.readReg]
  · rw [step_of_busWrite ha h4 hlt, State.writeWord, hnone, State.writeReg]

/-! ## The steps that move STATUS, one by one (R24, R25, R184) -/

/-- A CMD write while idle is a command start. -/
theorem step_of_cmdWrite_idle {s : State} {w : Word} {rest : List Event}
    (ha : s.agenda = busWrite 0x08 w :: rest) (hb : s.busy = false) :
    step s = .next (s.eventTaken.start w) := by
  rw [step_of_busWrite ha (by decide) (by decide), ← eventTaken_of_cons ha]
  exact congrArg _ (if_neg (by simp [hb]))

/-- A CMD write while BUSY = 1 only sets IGNORED. -/
theorem step_of_cmdWrite_busy {s : State} {w : Word} {rest : List Event}
    (ha : s.agenda = busWrite 0x08 w :: rest) (hb : s.busy = true) :
    step s = .next { s.eventTaken with ignored := true } := by
  rw [step_of_busWrite ha (by decide) (by decide), ← eventTaken_of_cons ha]
  exact congrArg _ (if_pos hb)

/-- A STATUS write clears the flags whose bits are set. -/
theorem step_of_statusWrite {s : State} {w : Word} {rest : List Event}
    (ha : s.agenda = busWrite 0x0C w :: rest) : step s = .next (s.eventTaken.writeStatus w) := by
  rw [step_of_busWrite ha (by decide) (by decide), ← eventTaken_of_cons ha]
  rfl

/-- The sequencer's step while BUSY = 1 is a completion. -/
theorem step_of_busy_sequencerMoves {s : State} (hb : s.busy = true) (hm : s.sequencerMoves) :
    ∃ r n, step s = .next (s.eventTaken.finish r n) := by
  obtain ⟨r, n, hc⟩ := complete_cases s.eventTaken
  exact ⟨r, n, by rw [step_of_sequencerMoves hm, State.sequencerTurn, eventTaken_busy, if_pos hb, hc]⟩

/-- Settles O7: a read of CMD's word returns 0, and a write is a start or sets IGNORED. -/
theorem commandWriteStartsOrIsIgnored : Obligations.CommandWriteStartsOrIsIgnored := by
  unfold Obligations.CommandWriteStartsOrIsIgnored
  refine fun s w rest => ⟨fun ha => ?_, fun ha hb => ?_, fun ha hb => ?_⟩
  · exact step_of_busRead ha (by decide) (by decide)
  · rw [step_of_cmdWrite_idle ha hb, eventTaken_of_cons ha, State.start]
  · rw [step_of_cmdWrite_busy ha hb, eventTaken_of_cons ha]

/-- Settles O20: the values R41 states, read from the reset state. -/
theorem resetStateHasSpecifiedValues : Obligations.ResetStateHasSpecifiedValues := by
  unfold Obligations.ResetStateHasSpecifiedValues
  exact ⟨rfl, rfl, rfl, rfl, rfl, rfl, rfl, rfl, rfl, rfl⟩

/-! ## Everything that can move STATUS (R25, R30 to R34) -/

/-- Everything a step can do, in the words of the obligations: the sequencer's turn, a read, a write or a
reset, each on the state with its event used up. -/
theorem step_event_cases {s u : State} (h : step s = .next u) :
    (s.sequencerMoves ∧ s.busy = true ∧ ∃ r n, u = s.eventTaken.finish r n) ∨
    (s.sequencerMoves ∧ s.busy = false ∧ u = s.eventTaken) ∨
    (∃ off rest, s.agenda = busRead off :: rest ∧ off % 4 = 0 ∧ off < 256 ∧
      u = s.eventTaken.access off .read) ∨
    (∃ off w rest, s.agenda = busWrite off w :: rest ∧ off % 4 = 0 ∧ off < 256 ∧
      u = s.eventTaken.writeWord off w) ∨
    (∃ rest, s.agenda = .reset :: rest ∧ u = s.eventTaken.resetEvent) := by
  have turn (hm : s.sequencerMoves) :
      (s.busy = true ∧ ∃ r n, u = s.eventTaken.finish r n) ∨ (s.busy = false ∧ u = s.eventTaken) :=
    sequencerTurn_cases ((step_of_sequencerMoves hm).symm.trans h)
  rcases step_cases h with ⟨ha, -⟩ | ⟨rest, ha, -⟩ | ⟨rest, t, off, ha, hbits, haddr, hlt, h4, hu⟩ |
    ⟨rest, ha, hu⟩
  · exact (turn (.inl ha)).imp (⟨.inl ha, ·⟩) (.inl ⟨.inl ha, ·⟩)
  · exact (turn (.inr ⟨rest, ha⟩)).imp (⟨.inr ⟨rest, ha⟩, ·⟩) (.inl ⟨.inr ⟨rest, ha⟩, ·⟩)
  · rw [← eventTaken_of_cons ha] at hu
    obtain ⟨addr, bits, a⟩ := t
    cases hbits
    cases haddr
    cases a with
    | read => exact .inr (.inr (.inl ⟨off, rest, ha, h4, hlt, hu⟩))
    | write w => exact .inr (.inr (.inr (.inl ⟨off, w, rest, ha, h4, hlt, hu⟩)))
  · rw [← eventTaken_of_cons ha] at hu
    exact .inr (.inr (.inr (.inr ⟨rest, ha, hu⟩)))

/-- The STATUS register of `u` holds what that of `s` does (R25). -/
def State.sameStatus (s u : State) : Prop :=
  u.busy = s.busy ∧ u.done = s.done ∧ u.ignored = s.ignored ∧ u.errcode = s.errcode

/-- Only a write to CMD or STATUS reaches the STATUS register. -/
theorem writeReg_sameStatus (s : State) (w : Word) {r : Option RegName} (hc : r ≠ some .cmd)
    (hs : r ≠ some .status) : s.sameStatus (s.writeReg w r) := by
  simp [State.sameStatus, hc, hs]

/-- The steps that can move the STATUS register: a completion, a reset, a CMD write (idle or busy) and a
STATUS write. -/
theorem step_status_cases {s u : State} (h : step s = .next u) :
    (s.busy = true ∧ s.sequencerMoves ∧ ∃ r n, u = s.eventTaken.finish r n) ∨
    ((∃ rest, s.agenda = .reset :: rest) ∧ u = s.eventTaken.resetEvent) ∨
    (∃ w, (∃ rest, s.agenda = busWrite 0x08 w :: rest) ∧ s.busy = false ∧ u = s.eventTaken.start w) ∨
    (∃ w, (∃ rest, s.agenda = busWrite 0x08 w :: rest) ∧ s.busy = true ∧
      u = { s.eventTaken with ignored := true }) ∨
    (∃ w, (∃ rest, s.agenda = busWrite 0x0C w :: rest) ∧ u = s.eventTaken.writeStatus w) ∨
    s.sameStatus u := by
  rcases step_event_cases h with ⟨hm, hb, hu⟩ | ⟨-, -, rfl⟩ | ⟨off, rest, -, -, -, rfl⟩ |
    ⟨off, w, rest, ha, h4, -, hu⟩ | ⟨rest, ha, hu⟩
  · exact .inl ⟨hb, hm, hu⟩
  · exact .inr (.inr (.inr (.inr (.inr ⟨rfl, rfl, rfl, rfl⟩))))
  · exact .inr (.inr (.inr (.inr (.inr ⟨rfl, rfl, rfl, rfl⟩))))
  · by_cases hc : regAt off = some .cmd
    · obtain rfl : off = 0x08 := regOffset_of_regAt h4 hc
      cases hb : s.busy with
      | false =>
        rw [step_of_cmdWrite_idle ha hb, Host.Outcome.next.injEq] at h
        exact .inr (.inr (.inl ⟨w, ⟨rest, ha⟩, rfl, h.symm⟩))
      | true =>
        rw [step_of_cmdWrite_busy ha hb, Host.Outcome.next.injEq] at h
        exact .inr (.inr (.inr (.inl ⟨w, ⟨rest, ha⟩, rfl, h.symm⟩)))
    · by_cases hs : regAt off = some .status
      · obtain rfl : off = 0x0C := regOffset_of_regAt h4 hs
        exact .inr (.inr (.inr (.inr (.inl ⟨w, ⟨rest, ha⟩, hu⟩))))
      · have hsame : s.eventTaken.sameStatus u := hu ▸ writeReg_sameStatus s.eventTaken w hc hs
        exact .inr (.inr (.inr (.inr (.inr hsame))))
  · exact .inr (.inl ⟨⟨rest, ha⟩, hu⟩)

/-! ## BUSY (R30) -/

theorem statusWord_zero (s : State) : s.statusWord[0] = s.busy := by
  rw [State.statusWord, ← BitVec.getLsbD_eq_getElem, BitVec.getLsbD_append]
  simp

/-- A step that sets BUSY is a CMD write. -/
theorem cmdWrite_of_step_busy_rises {s u : State} (h : step s = .next u) (hs : s.busy = false)
    (hu : u.busy = true) : ∃ w rest, s.agenda = busWrite 0x08 w :: rest := by
  rcases step_status_cases h with ⟨hb, -⟩ | ⟨-, rfl⟩ | ⟨w, ha, -⟩ | ⟨w, ha, -⟩ | ⟨w, -, rfl⟩ | ⟨hsame, -⟩
  · simp [hs] at hb
  · simp at hu
  · exact ⟨w, ha⟩
  · exact ⟨w, ha⟩
  · simp [hs] at hu
  · simp [hs, hu] at hsame

/-- A step that clears BUSY is the sequencer's or a reset. -/
theorem sequencer_or_reset_of_step_busy_falls {s u : State} (h : step s = .next u) (hs : s.busy = true)
    (hu : u.busy = false) : s.sequencerMoves ∨ ∃ rest, s.agenda = .reset :: rest := by
  rcases step_status_cases h with ⟨-, hm, -⟩ | ⟨ha, -⟩ | ⟨w, -, -, rfl⟩ | ⟨w, -, -, rfl⟩ | ⟨w, -, rfl⟩ |
    ⟨hsame, -⟩
  · exact .inl hm
  · exact .inr ha
  · simp at hu
  · simp [hs] at hu
  · simp [hs] at hu
  · simp [hs, hu] at hsame

/-- Settles O13: the steps that move BUSY by their equations, and nothing else by `step_status_cases`. -/
theorem busyChangesOnlyByStartCompletionReset : Obligations.BusyChangesOnlyByStartCompletionReset := by
  unfold Obligations.BusyChangesOnlyByStartCompletionReset
  refine ⟨fun s w rest ha hb => ⟨_, step_of_cmdWrite_idle ha hb, rfl⟩, ?_,
    fun s u => cmdWrite_of_step_busy_rises, fun s u => sequencer_or_reset_of_step_busy_falls,
    statusWord_zero, fun s w rest ha hb => ⟨_, step_of_cmdWrite_busy ha hb, hb, rfl⟩⟩
  rintro s hb (hm | ⟨rest, ha⟩)
  · obtain ⟨r, n, hstep⟩ := step_of_busy_sequencerMoves hb hm
    exact ⟨_, hstep, rfl⟩
  · exact ⟨_, step_of_reset ha, rfl⟩

/-! ## DONE and the interrupt level (R31, R37) -/

theorem irq_of_done {s : State} (h : s.done = true) : s.irq = s.ie := by
  rw [State.irq, h, Bool.and_true]

theorem irq_of_not_done {s : State} (h : s.done = false) : s.irq = false := by
  rw [State.irq, h, Bool.and_false]

/-- A start, a STATUS write with bit 1 set and a reset each clear DONE. -/
theorem step_clears_done {s : State} {w : Word} {rest : List Event}
    (h : (s.agenda = busWrite 0x08 w :: rest ∧ s.busy = false) ∨
      (s.agenda = busWrite 0x0C w :: rest ∧ w[1] = true) ∨ s.agenda = .reset :: rest) :
    ∃ u, step s = .next u ∧ u.done = false := by
  rcases h with ⟨ha, hb⟩ | ⟨ha, hw⟩ | ha
  · exact ⟨_, step_of_cmdWrite_idle ha hb, rfl⟩
  · exact ⟨_, step_of_statusWrite ha, by simp [hw]⟩
  · exact ⟨_, step_of_reset ha, rfl⟩

/-- A step that changes DONE is a completion, which sets it, or one of the three that clear it. -/
theorem event_of_step_done_changes {s u : State} (h : step s = .next u) (hne : s.done ≠ u.done) :
    (u.done = true ∧ s.busy = true ∧ s.sequencerMoves) ∨
    (u.done = false ∧ ((∃ w rest, s.agenda = busWrite 0x08 w :: rest ∧ s.busy = false) ∨
      (∃ w rest, s.agenda = busWrite 0x0C w :: rest ∧ w[1] = true) ∨
      ∃ rest, s.agenda = .reset :: rest)) := by
  rcases step_status_cases h with ⟨hb, hm, r, n, rfl⟩ | ⟨ha, rfl⟩ | ⟨w, ⟨rest, ha⟩, hb, rfl⟩ |
    ⟨w, -, -, rfl⟩ | ⟨w, ⟨rest, ha⟩, rfl⟩ | ⟨-, hsame, -⟩
  · exact .inl ⟨rfl, hb, hm⟩
  · exact .inr ⟨rfl, .inr (.inr ha)⟩
  · exact .inr ⟨rfl, .inl ⟨w, rest, ha, hb⟩⟩
  · exact absurd rfl hne
  · have hw : w[1] = true := by
      by_contra hw
      simp [hw] at hne
    exact .inr ⟨by simp [hw], .inr (.inl ⟨w, rest, ha, hw⟩)⟩
  · exact absurd hsame.symm hne

/-- Settles O14: the steps that move DONE by their equations, and nothing else by `step_status_cases`. -/
theorem doneChangesOnlyByItsEvents : Obligations.DoneChangesOnlyByItsEvents := by
  unfold Obligations.DoneChangesOnlyByItsEvents
  refine ⟨fun s hb hm => ?_, fun s w rest h => ?_, fun s u => event_of_step_done_changes⟩
  · obtain ⟨r, n, hstep⟩ := step_of_busy_sequencerMoves hb hm
    exact ⟨_, hstep, rfl, irq_of_done rfl⟩
  · obtain ⟨u, hstep, hdone⟩ := step_clears_done h
    exact ⟨u, hstep, hdone, irq_of_not_done hdone⟩

/-! ## IGNORED (R33) -/

/-- A step that sets IGNORED is a CMD write while BUSY = 1. -/
theorem busy_cmdWrite_of_step_ignored_rises {s u : State} (h : step s = .next u)
    (hs : s.ignored = false) (hu : u.ignored = true) :
    s.busy = true ∧ ∃ w rest, s.agenda = busWrite 0x08 w :: rest := by
  rcases step_status_cases h with ⟨-, -, r, n, rfl⟩ | ⟨-, rfl⟩ | ⟨w, -, -, rfl⟩ | ⟨w, ha, hb, -⟩ |
    ⟨w, -, rfl⟩ | ⟨-, -, hsame, -⟩
  · simp [hs] at hu
  · simp at hu
  · simp [hs] at hu
  · exact ⟨hb, w, ha⟩
  · simp [hs] at hu
  · simp [hs, hu] at hsame

/-- A step that clears IGNORED is a STATUS write with bit 3 set or a reset. -/
theorem statusWrite_or_reset_of_step_ignored_falls {s u : State} (h : step s = .next u)
    (hs : s.ignored = true) (hu : u.ignored = false) :
    (∃ w rest, s.agenda = busWrite 0x0C w :: rest ∧ w[3] = true) ∨
    ∃ rest, s.agenda = .reset :: rest := by
  rcases step_status_cases h with ⟨-, -, r, n, rfl⟩ | ⟨ha, -⟩ | ⟨w, -, -, rfl⟩ | ⟨w, -, -, rfl⟩ |
    ⟨w, ⟨rest, ha⟩, rfl⟩ | ⟨-, -, hsame, -⟩
  · simp [hs] at hu
  · exact .inr ha
  · simp [hs] at hu
  · simp at hu
  · exact .inl ⟨w, rest, ha, by simpa [hs] using hu⟩
  · simp [hs, hu] at hsame

/-- Settles O15: the steps that move IGNORED by their equations, and nothing else by `step_status_cases`. -/
theorem ignoredIsSticky : Obligations.IgnoredIsSticky := by
  unfold Obligations.IgnoredIsSticky
  refine ⟨fun s w rest ha hb => ⟨_, step_of_cmdWrite_busy ha hb, rfl⟩, ?_,
    fun s u => busy_cmdWrite_of_step_ignored_rises,
    fun s u => statusWrite_or_reset_of_step_ignored_falls⟩
  rintro s w rest (⟨ha, hw⟩ | ha)
  · exact ⟨_, step_of_statusWrite ha, by simp [hw]⟩
  · exact ⟨_, step_of_reset ha, rfl⟩

end Sys2Proof.Machine
end

section
/-! PROOFS. The bus transfers: what a read returns, what a write leaves, what is refused, and the byte order
of the register words (spec/20_memory.md R52, R53, R55, R58). -/

namespace Sys2Proof.Machine

/-! ## The register words at their offsets (R20, R21, R28) -/

/-- The map gives each register word back at its own offset. -/
@[simp] theorem regAt_regOffset (r : RegName) : regAt (regOffset r) = some r := by
  cases r with
  | id | ctrl | cmd | status | scaleExp | iter => rfl
  | opa k | opb k | opc k | res k => revert k; decide

theorem readWord_regOffset (s : State) (r : RegName) : s.readWord (regOffset r) = s.readReg (some r) := by
  rw [State.readWord, regAt_regOffset]

theorem writeWord_regOffset (s : State) (w : Word) (r : RegName) :
    s.writeWord (regOffset r) w = s.writeReg w (some r) := by
  rw [State.writeWord, regAt_regOffset]

theorem readWord_of_reserved (s : State) {off : Nat} (h : (0x18 ≤ off ∧ off ≤ 0x1F) ∨ 0xA0 ≤ off) :
    s.readWord off = 0#32 := by
  rw [State.readWord, regAt_of_reserved h, State.readReg]

/-- An aligned offset inside a register's eight words is that of one of them. -/
theorem exists_word_offset {base off : Nat} (hb : base % 4 = 0) (h4 : off % 4 = 0)
    (h : base ≤ off ∧ off ≤ base + 28) : ∃ k : Fin 8, off = base + 4 * k.val :=
  ⟨⟨(off - base) / 4, by omega⟩, by simp only; omega⟩

/-- A word of a register, by the bit at which its offset says it begins (R53). -/
theorem getWord_eq_extractLsb'_offset (r : Wide) (base k : Nat) :
    getWord r k = r.extractLsb' (8 * (base + 4 * k - base)) 32 := by
  rw [getWord, show 8 * (base + 4 * k - base) = 32 * k by omega]

/-- A host reads the eight words of `r` at `base`, word 0 first (R58). -/
def State.wordsAt (s : State) (base : Nat) (r : Wide) : Prop :=
  ∀ k : Fin 8, s.readWord (base + 4 * k.val) = getWord r k.val

theorem wordsAt_opa (s : State) : s.wordsAt 0x20 s.opa := fun k => readWord_regOffset s (.opa k)
theorem wordsAt_opb (s : State) : s.wordsAt 0x40 s.opb := fun k => readWord_regOffset s (.opb k)
theorem wordsAt_opc (s : State) : s.wordsAt 0x60 s.opc := fun k => readWord_regOffset s (.opc k)
theorem wordsAt_res (s : State) : s.wordsAt 0x80 s.res := fun k => readWord_regOffset s (.res k)

theorem readWord_of_wordsAt {s : State} {base off : Nat} {r : Wide} (hr : s.wordsAt base r)
    (hb : base % 4 = 0) (h4 : off % 4 = 0) (h : base ≤ off ∧ off ≤ base + 28) :
    s.readWord off = r.extractLsb' (8 * (off - base)) 32 := by
  obtain ⟨k, rfl⟩ := exists_word_offset hb h4 h
  rw [hr k, getWord_eq_extractLsb'_offset r base]

/-! ## Reads (R52) -/

theorem ctrlWord_eq_append (s : State) : s.ctrlWord = 0#31 ++ BitVec.ofBool s.ie := by
  unfold State.ctrlWord
  cases s.ie <;> rfl

theorem errFlag_eq_decide (s : State) : s.errFlag = decide (s.errcode ≠ 0#4) :=
  decide_not.symm

theorem scaleExpWord_eq_append (s : State) : s.scaleExpWord = 0#24 ++ s.scaleExp :=
  BitVec.setWidth_eq_append (by decide)

/-- Settles O4: the read step returns the word of the map, which is the register's at every offset. -/
theorem readTransferReturnsRegisterWord : Obligations.ReadTransferReturnsRegisterWord := by
  unfold Obligations.ReadTransferReturnsRegisterWord
  intro s off rest h4 hle ha
  have hstep := step_of_busRead ha h4 (by omega)
  refine ⟨s.readWord off, hstep, ?id, ?ctrl, ?cmd, ?status, ?scaleExp, ?iter, ?lowReserved, ?opa, ?opb,
    ?opc, ?res, ?highReserved⟩
  case id => rintro rfl; exact readWord_regOffset s .id
  case ctrl => rintro rfl; exact (readWord_regOffset s .ctrl).trans (ctrlWord_eq_append s)
  case cmd => rintro rfl; exact readWord_regOffset s .cmd
  case status =>
    rintro rfl
    rw [← errFlag_eq_decide]
    exact readWord_regOffset s .status
  case scaleExp => rintro rfl; exact (readWord_regOffset s .scaleExp).trans (scaleExpWord_eq_append s)
  case iter => rintro rfl; exact readWord_regOffset s .iter
  case lowReserved => exact fun h => readWord_of_reserved s (by omega)
  case opa => exact readWord_of_wordsAt (wordsAt_opa s) (by decide) h4
  case opb => exact readWord_of_wordsAt (wordsAt_opb s) (by decide) h4
  case opc => exact readWord_of_wordsAt (wordsAt_opc s) (by decide) h4
  case res => exact readWord_of_wordsAt (wordsAt_res s) (by decide) h4
  case highReserved => exact fun h => readWord_of_reserved s (.inr h)

/-! ## Writes (R53) -/

/-- A word write replaces the addressed word and keeps every other bit (R21). -/
theorem replacesWord_setWord (r : Wide) (w : Word) (base : Nat) (k : Fin 8) :
    replacesWord r (setWord r k w) (8 * (base + 4 * k.val - base)) w := by
  refine ⟨?_, fun i hi => ?_⟩
  · rw [← getWord_eq_extractLsb'_offset, getWord_setWord_same r k w k.isLt]
  · have hout : ¬ (32 * k.val ≤ i ∧ i < 32 * k.val + 32) := by omega
    rw [getLsbD_setWord, if_neg hout]
    by_cases hlt : i < 256
    · rw [decide_eq_true hlt, Bool.true_and]
    · rw [decide_eq_false hlt, Bool.false_and, BitVec.getLsbD_of_ge r i (by omega)]

/-- A write step at an offset inside a register's eight words replaces the word there, where `put r` is the
next state with `r` in the register. -/
theorem step_replacesWord {s t : State} {w : Word} {base off : Nat} {old : Wide} {put : Wide → State}
    (hstep : step s = .next (t.writeWord off w))
    (hput : ∀ k : Fin 8, t.writeWord (base + 4 * k.val) w = put (setWord old k.val w))
    (hb : base % 4 = 0) (h4 : off % 4 = 0) (h : base ≤ off ∧ off ≤ base + 28) :
    ∃ r, replacesWord old r (8 * (off - base)) w ∧ step s = .next (put r) := by
  obtain ⟨k, rfl⟩ := exists_word_offset hb h4 h
  exact ⟨_, replacesWord_setWord old w base k, by rw [hstep, hput k]⟩

/-- R25's flags after a STATUS write, in the rule's words. -/
theorem writeStatus_eq_ite (s : State) (w : Word) :
    s.writeStatus w = { s with
      done := if w[1] then false else s.done
      ignored := if w[3] then false else s.ignored } := by
  unfold State.writeStatus
  cases w[1] <;> cases w[3] <;> simp

/-- ID, ITER, RES and the reserved offsets ignore every write (R22, R27, R28, R29). -/
theorem writeWord_of_readOnly (s : State) (w : Word) {off : Nat} (h4 : off % 4 = 0)
    (h : off = 0x00 ∨ (0x14 ≤ off ∧ off ≤ 0x1C) ∨ 0x80 ≤ off) : s.writeWord off w = s := by
  rw [State.writeWord]
  cases hr : regAt off with
  | none => rfl
  | some r =>
    have hoff := regOffset_of_regAt h4 hr
    cases r with
    | id | iter | res k => rfl
    | ctrl | cmd | status | scaleExp | opa k | opb k | opc k => simp only [regOffset] at hoff; omega

/-- Settles O5: the write step by the register its offset names. -/
theorem writeTransferEffect : Obligations.WriteTransferEffect := by
  unfold Obligations.WriteTransferEffect
  intro s off w rest h4 hle ha
  have hstep := step_of_busWrite ha h4 (by omega)
  refine ⟨?ctrl, ?cmdIdle, ?cmdBusy, ?status, ?scaleExp, ?opa, ?opb, ?opc, ?readOnly⟩
  case ctrl => rintro rfl; exact hstep
  case cmdIdle =>
    rintro rfl hb
    rw [step_of_cmdWrite_idle ha hb, eventTaken_of_cons ha]
    rfl
  case cmdBusy =>
    rintro rfl hb
    rw [step_of_cmdWrite_busy ha hb, eventTaken_of_cons ha]
  case status =>
    rintro rfl
    rw [step_of_statusWrite ha, eventTaken_of_cons ha, writeStatus_eq_ite]
  case scaleExp =>
    rintro rfl
    rw [hstep, writeWord_scaleExp]
  case opa => exact step_replacesWord hstep (fun k => writeWord_regOffset _ w (.opa k)) (by decide) h4
  case opb => exact step_replacesWord hstep (fun k => writeWord_regOffset _ w (.opb k)) (by decide) h4
  case opc => exact step_replacesWord hstep (fun k => writeWord_regOffset _ w (.opc k)) (by decide) h4
  case readOnly =>
    intro h
    rw [hstep, writeWord_of_readOnly _ w h4 h]

/-! ## Refused transfers (R55) -/

/-- No step faults (log entry 8), so an outcome that is no next state is a refusal. -/
theorem exists_refused_of_ne_next {o : Host.Outcome State Fault Refusal} (h : ∀ u, o ≠ .next u) :
    ∃ r, o = .refused r := by
  cases o with
  | next u => exact absurd rfl (h u)
  | fault f => cases f
  | refused r => exact ⟨r, rfl⟩

/-- Settles O8: an accepted transfer is 32 bits wide at an aligned offset (`transfer_cases`). -/
theorem malformedTransfersAreRefused : Obligations.MalformedTransfersAreRefused := by
  unfold Obligations.MalformedTransfersAreRefused
  intro s t rest ha hbad
  rw [step_of_cons ha, State.handle]
  refine exists_refused_of_ne_next fun u hu => ?_
  obtain ⟨off, hbits, haddr, -, h4, -⟩ := transfer_cases hu
  rcases hbad with hwidth | ⟨off', haddr', h4'⟩
  · exact hwidth hbits
  · omega

/-! ## Byte order (R58) -/

/-- A byte address splits into its word's offset and its lane. -/
theorem byteAt_add (s : State) {off i : Nat} (h4 : off % 4 = 0) (hi : i < 4) :
    s.byteAt (off + i) = (s.readWord off).extractLsb' (8 * i) 8 := by
  have hlane : (off + i) % 4 = i := by omega
  rw [State.byteAt, hlane, Nat.add_sub_cancel]

/-- A byte lane of a word of a register is a byte of the register. -/
theorem extractLsb'_getWord (r : Wide) (k i : Nat) (hi : i < 4) :
    (getWord r k).extractLsb' (8 * i) 8 = r.extractLsb' (8 * (4 * k + i)) 8 := by
  ext j hj
  have hlane : 8 * i + j < 32 := by omega
  have hbit : 32 * k + (8 * i + j) = 8 * (4 * k + i) + j := by omega
  simp only [← BitVec.getLsbD_eq_getElem, BitVec.getLsbD_extractLsb', getLsbD_getWord, hj, hlane, hbit,
    decide_true, Bool.true_and]

/-- A register whose eight words lie at `base` in order lies there as 32 little-endian bytes. -/
theorem byteAt_of_wordsAt {s : State} {r : Wide} {base : Nat} (hb : base % 4 = 0)
    (hr : s.wordsAt base r) {i : Nat} (hi : i < 32) :
    s.byteAt (base + i) = r.extractLsb' (8 * i) 8 := by
  have hsplit : 4 * (i / 4) + i % 4 = i := Nat.div_add_mod i 4
  have hlane : i % 4 < 4 := Nat.mod_lt i (by decide)
  calc s.byteAt (base + i)
      = s.byteAt (base + 4 * (i / 4) + i % 4) := by rw [Nat.add_assoc, hsplit]
    _ = (s.readWord (base + 4 * (i / 4))).extractLsb' (8 * (i % 4)) 8 := byteAt_add s (by omega) hlane
    _ = (getWord r (i / 4)).extractLsb' (8 * (i % 4)) 8 := by rw [hr ⟨i / 4, by omega⟩]
    _ = r.extractLsb' (8 * i) 8 := by rw [extractLsb'_getWord r _ _ hlane, hsplit]

/-- The rule's example value, as a pattern: its eight words. -/
theorem words_of_toInt_eq_example {r : Wide} (h : r.toInt = -3 * 10 ^ 27) :
    (List.range 8).map (getWord r) =
      [0x48000000#32, 0x208E7F49#32, 0xF64E754A#32, 0xFFFFFFFF#32, 0xFFFFFFFF#32, 0xFFFFFFFF#32,
        0xFFFFFFFF#32, 0xFFFFFFFF#32] := by
  have hr : r = enc (-3 * 10 ^ 27) := by rw [← h]; exact (enc_val r).symm
  rw [hr]
  decide

/-- Settles O11: the words lie where the map puts them, and a byte is a lane of its word. -/
theorem registersAreLittleEndianBytes : Obligations.RegistersAreLittleEndianBytes := by
  unfold Obligations.RegistersAreLittleEndianBytes
  refine ⟨fun s off i h4 _ hi => byteAt_add s h4 hi, fun s i hi => ?bytes, fun s k hk => ?words,
    fun s h => ?exampleValue⟩
  case bytes =>
    exact ⟨byteAt_of_wordsAt (by decide) (wordsAt_opa s) hi,
      byteAt_of_wordsAt (by decide) (wordsAt_opb s) hi,
      byteAt_of_wordsAt (by decide) (wordsAt_opc s) hi,
      byteAt_of_wordsAt (by decide) (wordsAt_res s) hi⟩
  case words =>
    exact ⟨wordsAt_opa s ⟨k, hk⟩, wordsAt_opb s ⟨k, hk⟩,
      wordsAt_opc s ⟨k, hk⟩, wordsAt_res s ⟨k, hk⟩⟩
  case exampleValue =>
    rw [← words_of_toInt_eq_example h]
    exact List.map_congr_left fun k hk => wordsAt_opa s ⟨k, List.mem_range.1 hk⟩

end Sys2Proof.Machine
end

section
/-! PROOFS. Legal command words (spec/30_encoding.md R82, R83): the decoder accepts a word when its RSVD
field is 0 and the opcode map has a row for its OPCODE, which is what `legal` asks. -/

namespace Sys2Proof

/-- The opcode map of R83 has exactly the rows 0x01 to 0x06. -/
theorem decodeOpcode_ok_iff (op : Nat) :
    (∃ i, decodeOpcode op = .ok i) ↔ op ∈ [0x01, 0x02, 0x03, 0x04, 0x05, 0x06] := by
  constructor
  · rintro ⟨i, h⟩
    unfold decodeOpcode at h
    split at h
    case h_7 => cases h -- no row: the map answers an error
    all_goals decide
  · simp only [List.mem_cons, List.not_mem_nil, or_false]
    rintro (rfl | rfl | rfl | rfl | rfl | rfl)
    exacts [⟨.add, rfl⟩, ⟨.sub, rfl⟩, ⟨.mul, rfl⟩, ⟨.div, rfl⟩, ⟨.sqrt, rfl⟩, ⟨.solve, rfl⟩]

/-- The decoder's two checks, RSVD first. -/
theorem decode_eq_ok {w : Word} {i : Instr} :
    decode w = .ok i ↔ rsvdField w = 0#24 ∧ decodeOpcode (opcodeField w).toNat = .ok i := by
  unfold decode
  split <;> simp [*]

/-- R82's formula, with the OPCODE read as a number. -/
theorem legal_iff (w : Word) :
    legal w = true ↔ rsvdField w = 0#24 ∧
      (opcodeField w).toNat ∈ [0x01, 0x02, 0x03, 0x04, 0x05, 0x06] := by
  have hop : opcodeField w ∈ [0x01#8, 0x02#8, 0x03#8, 0x04#8, 0x05#8, 0x06#8] ↔
      (opcodeField w).toNat ∈ [0x01, 0x02, 0x03, 0x04, 0x05, 0x06] :=
    (List.mem_map_of_injective fun _ _ => BitVec.eq_of_toNat_eq).symm
  rw [legal, Bool.and_eq_true, beq_iff_eq, List.contains_iff_mem, hop]

theorem exists_decode_eq_ok_iff_legal (w : Word) : (∃ i, decode w = .ok i) ↔ legal w = true := by
  simp only [decode_eq_ok, exists_and_left, decodeOpcode_ok_iff, legal_iff]

/-- Settles O2: both halves ask for RSVD = 0 and an OPCODE with a row in the map. -/
theorem decodeAcceptsExactlyLegalWords : Obligations.DecodeAcceptsExactlyLegalWords :=
  fun w => ⟨legal_iff w, exists_decode_eq_ok_iff_legal w⟩

end Sys2Proof
end

section
/-! PROOFS. ADD, SUB, MUL and DIV: what each command completes with, and the laws of scaled
multiplication and division (spec/40_arith.md R100 to R110). -/

namespace Sys2Proof.Machine

/-! ## The primitives and the range (R100 to R103) -/

theorem chk_of_inRange {v : Int} (h : inRange v) : chk v = .ok v := chk_of_range h

theorem chk_of_not_inRange {v : Int} (h : ¬ inRange v) : chk v = .error .overflow :=
  chk_eq_error.2 ⟨rfl, h⟩

/-- R102 with the library's truncated quotient. -/
theorem mul_eq_chk_tdiv (x y : Int) : mul x y = chk (Int.tdiv (x * y) (10 ^ 27)) :=
  congrArg chk (tdiv_eq_int_tdiv _ _)

/-- R103 past its zero test, with the library's truncated quotient. -/
theorem div_eq_chk_tdiv (x : Int) {y : Int} (hy : y ≠ 0) :
    div x y = chk (Int.tdiv (x * 10 ^ 27) y) := by
  rw [div_of_ne_zero hy, tdiv_eq_int_tdiv]
  rfl

/-! ## Completions (R104 to R107) -/

theorem exec_add (s : State) : exec .add s = .next (s.finish (add s.lA.toInt s.lB.toInt) 0) := rfl
theorem exec_sub (s : State) : exec .sub s = .next (s.finish (sub s.lA.toInt s.lB.toInt) 0) := rfl
theorem exec_mul (s : State) : exec .mul s = .next (s.finish (mul s.lA.toInt s.lB.toInt) 0) := rfl
theorem exec_div (s : State) : exec .div s = .next (s.finish (div s.lA.toInt s.lB.toInt) 0) := rfl

/-- A completion that took no Newton step and raised nothing: RES is the value, ERRCODE and ITER are 0. -/
theorem finish_ok (s : State) (v : Int) :
    s.finish (.ok v) 0 = s.completed (BitVec.ofInt 256 v) 0#4 0#32 := rfl

/-- A completion that took no Newton step and raised an error: RES and ITER are 0. -/
theorem finish_error (s : State) (e : ErrorKind) :
    s.finish (.error e) 0 = s.completed 0#256 e.code 0#32 := rfl

/-- What a command whose outcome is `chk v` leaves, in range and out of range. -/
theorem exec_of_chk {i : Instr} {s : State} {v : Int} (h : exec i s = .next (s.finish (chk v) 0)) :
    (inRange v → exec i s = .next (s.completed (BitVec.ofInt 256 v) 0#4 0#32)) ∧
    (¬ inRange v → exec i s = .next (s.completed 0#256 5#4 0#32)) := by
  refine ⟨fun hv => ?_, fun hv => ?_⟩
  · rw [h, chk_of_inRange hv, finish_ok]
  · rw [h, chk_of_not_inRange hv, finish_error, ErrorKind.code]

/-- Settles O35: `add` is `chk` of the sum, and the completion writes what `chk` answers. -/
theorem addCommandIsExactSum : Obligations.AddCommandIsExactSum := by
  unfold Obligations.AddCommandIsExactSum
  exact ⟨rfl, fun x y => ⟨chk_of_inRange, chk_of_not_inRange⟩, fun s => exec_of_chk (exec_add s)⟩

/-- Settles O36: `sub` is `chk` of the difference, and the completion writes what `chk` answers. -/
theorem subCommandIsExactDifference : Obligations.SubCommandIsExactDifference := by
  unfold Obligations.SubCommandIsExactDifference
  exact ⟨rfl, fun x y => ⟨chk_of_inRange, chk_of_not_inRange⟩, fun s => exec_of_chk (exec_sub s)⟩

/-- Settles O37: `mul` is `chk` of the truncated quotient by SCALE, and the completion writes what `chk`
answers. -/
theorem mulCommandIsTruncatedScaledProduct : Obligations.MulCommandIsTruncatedScaledProduct := by
  unfold Obligations.MulCommandIsTruncatedScaledProduct
  refine ⟨rfl, ?_⟩
  rintro x y q rfl
  rw [mul_eq_chk_tdiv]
  refine ⟨chk_of_inRange, chk_of_not_inRange, ?_⟩
  rintro s rfl rfl
  exact exec_of_chk (by rw [exec_mul, mul_eq_chk_tdiv])

/-- Settles O38: the zero test comes first; past it `div` is `chk` of the truncated scaled quotient. -/
theorem divCommandIsTruncatedScaledQuotient : Obligations.DivCommandIsTruncatedScaledQuotient := by
  unfold Obligations.DivCommandIsTruncatedScaledQuotient
  refine ⟨rfl, ?_⟩
  rintro x y q rfl
  refine ⟨fun hy => by rw [hy, div_zero], fun hy h => ?_, fun hy h => ?_, ?_⟩
  · rw [div_eq_chk_tdiv x hy, chk_of_inRange h]
  · rw [div_eq_chk_tdiv x hy, chk_of_not_inRange h]
  rintro s rfl rfl
  have hexec : s.lB.toInt ≠ 0 → exec .div s =
      .next (s.finish (chk (Int.tdiv (s.lA.toInt * 10 ^ 27) s.lB.toInt)) 0) :=
    fun hy => by rw [exec_div, div_eq_chk_tdiv _ hy]
  refine ⟨fun hy => ?_, fun hy => (exec_of_chk (hexec hy)).1, fun hy => (exec_of_chk (hexec hy)).2⟩
  rw [exec_div, hy, div_zero, finish_error, ErrorKind.code]

/-! ## The truncated quotient's size, sign and error (R8) -/

theorem abs_tdiv (n d : Int) : |tdiv n d| = |n| / |d| := by
  rw [tdiv_eq_int_tdiv, Int.abs_eq_natAbs, Int.natAbs_tdiv, Int.abs_eq_natAbs, Int.abs_eq_natAbs]
  rfl

theorem tdiv_eq_zero_iff (n : Int) {d : Int} (hd : d ≠ 0) : tdiv n d = 0 ↔ |n| < |d| := by
  have hpos : 0 < |d| := abs_pos.2 hd
  rw [← abs_eq_zero, abs_tdiv]
  refine ⟨fun h => ?_, Int.ediv_eq_zero_of_lt (abs_nonneg n)⟩
  simpa [h] using Int.lt_ediv_add_one_mul_self |n| hpos

theorem sign_tdiv_of_ne_zero {n d : Int} (h : tdiv n d ≠ 0) : (tdiv n d).sign = (n * d).sign := by
  rw [tdiv_eq_int_tdiv] at h ⊢
  have hs := Int.sign_tdiv n d
  split at hs
  · exact absurd (Int.sign_eq_zero_iff_zero.1 hs) h
  · rw [hs, Int.sign_mul]

/-- R8's sign may be taken to be that of the product: where the two differ the quotient is 0. -/
theorem tdiv_eq_sign_mul (n d : Int) : tdiv n d = (n * d).sign * (|n| / |d|) := by
  rw [← abs_tdiv]
  by_cases h : tdiv n d = 0
  · rw [h, abs_zero, mul_zero]
  · rw [← sign_tdiv_of_ne_zero h, Int.sign_mul_abs]

/-- A quotient is never further from zero than the exact value. -/
theorem abs_tdiv_mul_abs_le (n : Int) {d : Int} (hd : d ≠ 0) : |tdiv n d| * |d| ≤ |n| := by
  rw [abs_tdiv]
  exact Int.ediv_mul_le _ (abs_ne_zero.2 hd)

/-- A quotient differs from the exact value by less than 1. -/
theorem abs_tdiv_mul_sub_lt (n : Int) {d : Int} (hd : d ≠ 0) : |tdiv n d * d - n| < |d| := by
  rw [abs_sub_comm, mul_comm, sub_mul_tdiv_eq_tmod]
  exact abs_tmod_lt n hd

/-! ## Exact forms (R108) -/

theorem ten_pow_ne_zero : (10 : Int) ^ 27 ≠ 0 := scale_ne_zero

theorem abs_ten_pow : |(10 : Int) ^ 27| = 10 ^ 27 := abs_of_pos (by decide)

theorem sign_mul_scale (v : Int) : (v * 10 ^ 27).sign = v.sign := by
  rw [Int.sign_mul, Int.sign_eq_one_of_pos (by decide : (0 : Int) < 10 ^ 27), mul_one]

theorem mul_swap (x y : Int) : mul x y = mul y x := by
  unfold mul
  rw [mul_comm]

section Mul

variable {x y m : Int} (h : mul x y = .ok m)
include h

theorem eq_tdiv_of_mul : m = tdiv (x * y) (10 ^ 27) := (mul_eq_ok.1 h).1

theorem eq_sign_mul_of_mul : m = (x * y).sign * (|x| * |y| / 10 ^ 27) := by
  rw [eq_tdiv_of_mul h, tdiv_eq_sign_mul, sign_mul_scale, abs_mul, abs_ten_pow]

theorem eq_zero_iff_of_mul : m = 0 ↔ |x * y| < 10 ^ 27 := by
  rw [eq_tdiv_of_mul h, tdiv_eq_zero_iff _ ten_pow_ne_zero, abs_ten_pow]

theorem sign_of_mul (hm : m ≠ 0) : m.sign = (x * y).sign := by
  rw [eq_tdiv_of_mul h] at hm ⊢
  rw [sign_tdiv_of_ne_zero hm, sign_mul_scale]

theorem abs_le_of_mul : |m| * 10 ^ 27 ≤ |x * y| := by
  have hle := abs_tdiv_mul_abs_le (x * y) ten_pow_ne_zero
  rwa [← eq_tdiv_of_mul h, abs_ten_pow] at hle

theorem error_lt_of_mul : |m * 10 ^ 27 - x * y| < 10 ^ 27 := by
  have hlt := abs_tdiv_mul_sub_lt (x * y) ten_pow_ne_zero
  rwa [← eq_tdiv_of_mul h, abs_ten_pow] at hlt

end Mul

section Div

variable {x y q : Int} (h : div x y = .ok q)
include h

theorem ne_zero_of_div : y ≠ 0 := (div_eq_ok.1 h).1

theorem eq_tdiv_of_div : q = tdiv (x * 10 ^ 27) y := (div_eq_ok.1 h).2.1

theorem eq_sign_mul_of_div : q = (x * y).sign * (|x| * 10 ^ 27 / |y|) := by
  rw [eq_tdiv_of_div h, tdiv_eq_sign_mul, mul_right_comm, sign_mul_scale, abs_mul, abs_ten_pow]

theorem sign_of_div (hq : q ≠ 0) : q.sign = (x * y).sign := by
  rw [eq_tdiv_of_div h] at hq ⊢
  rw [sign_tdiv_of_ne_zero hq, mul_right_comm, sign_mul_scale]

theorem eq_neg_of_div_neg {q' : Int} (h' : div x (-y) = .ok q') : q' = -q := by
  rw [eq_tdiv_of_div h, eq_tdiv_of_div h', tdiv_eq_int_tdiv, tdiv_eq_int_tdiv, Int.tdiv_neg]

theorem abs_le_of_div : |q| * |y| ≤ |x| * 10 ^ 27 := by
  have hle := abs_tdiv_mul_abs_le (x * 10 ^ 27) (ne_zero_of_div h)
  rwa [← eq_tdiv_of_div h, abs_mul x, abs_ten_pow] at hle

theorem error_lt_of_div : |q * y - x * 10 ^ 27| < |y| := by
  have hlt := abs_tdiv_mul_sub_lt (x * 10 ^ 27) (ne_zero_of_div h)
  rwa [← eq_tdiv_of_div h] at hlt

end Div

/-- Settles O39: where nothing is raised both results are `tdiv` of exact integers, so each form is one of
R8's facts. -/
theorem mulAndDivExactForms : Obligations.MulAndDivExactForms := by
  unfold Obligations.MulAndDivExactForms
  refine ⟨fun x y m h => ?_, fun x y q h => ?_⟩
  · exact ⟨mul_swap x y ▸ h, eq_sign_mul_of_mul h, eq_zero_iff_of_mul h, abs_le_of_mul h,
      error_lt_of_mul h⟩
  · exact ⟨eq_sign_mul_of_div h, fun _ => eq_neg_of_div_neg h, abs_le_of_div h, error_lt_of_div h⟩

/-! ## Multiples of SCALE (R109) -/

/-- The exact product is `k·x·SCALE`, so the quotient by SCALE leaves no remainder. -/
theorem mul_scale_multiple (k x : Int) : mul (k * 10 ^ 27) x = chk (k * x) := by
  rw [mul_eq_chk_tdiv, mul_right_comm, Int.mul_tdiv_cancel _ ten_pow_ne_zero]

/-- Settles O40: the product by `k·SCALE` is `chk` of `k·x`. -/
theorem mulByMultipleOfScaleIsExact : Obligations.MulByMultipleOfScaleIsExact := by
  unfold Obligations.MulByMultipleOfScaleIsExact
  intro k x
  rw [mul_scale_multiple]
  exact ⟨chk_of_inRange, chk_of_not_inRange⟩

/-! ## The round trip (R110) -/

section RoundTrip

variable {x y q m : Int} (hq : div x y = .ok q) (hm : mul q y = .ok m)
include hq hm

/-- The sign of `y` enters twice, so a round trip that is not 0 keeps the sign of `x`. -/
theorem sign_of_roundTrip (h0 : m ≠ 0) : m.sign = x.sign := by
  have hq0 : q ≠ 0 := by
    rintro rfl
    exact h0 ((eq_zero_iff_of_mul hm).2 (by simp))
  have hyy : y.sign * y.sign = 1 := by
    rw [← Int.sign_mul]
    exact Int.sign_eq_one_of_pos (mul_self_pos.2 (ne_zero_of_div hq))
  calc m.sign = q.sign * y.sign := by rw [sign_of_mul hm h0, Int.sign_mul]
    _ = x.sign * (y.sign * y.sign) := by rw [sign_of_div hq hq0, Int.sign_mul, mul_assoc]
    _ = x.sign := by rw [hyy, mul_one]

theorem abs_le_of_roundTrip : |m| ≤ |x| := by
  have hmul := abs_le_of_mul hm
  have hdiv := abs_le_of_div hq
  rw [abs_mul] at hmul
  linarith only [hmul, hdiv]

/-- The loss is the sum of the two errors: less than `|y|` from `div` and less than SCALE from `mul`. -/
theorem loss_lt_of_roundTrip : (|x| - |m|) * 10 ^ 27 < |y| + 10 ^ 27 := by
  have hdiv : |x * 10 ^ 27| - |q * y| < |y| :=
    (abs_sub_abs_le_abs_sub _ _).trans_lt (abs_sub_comm (q * y) _ ▸ error_lt_of_div hq)
  have hmul : |q * y| - |m * 10 ^ 27| < 10 ^ 27 :=
    (abs_sub_abs_le_abs_sub _ _).trans_lt (abs_sub_comm (m * 10 ^ 27) _ ▸ error_lt_of_mul hm)
  rw [abs_mul x, abs_ten_pow] at hdiv
  rw [abs_mul m, abs_ten_pow] at hmul
  linarith only [hdiv, hmul]

end RoundTrip

/-- Settles O41: the sign, the size and the loss of a round trip that raises nothing. -/
theorem roundTripTruncationLaw : Obligations.RoundTripTruncationLaw := by
  unfold Obligations.RoundTripTruncationLaw
  intro x y q m _ hq hm
  exact ⟨or_iff_not_imp_left.2 (sign_of_roundTrip hq hm), sub_nonneg.2 (abs_le_of_roundTrip hq hm),
    loss_lt_of_roundTrip hq hm⟩

end Sys2Proof.Machine
end

section
/-! PROOFS. The Newton square root (spec/41_sqrt.md R130 to R140): one step as a closed recurrence, its
bounds, and the loop. -/

namespace Sys2Proof.Machine

/-! ## The two checks (R130) -/

theorem exec_sqrt (s : State) :
    exec .sqrt s = .next (s.finish (sqrt s.lA.toInt).1 (sqrt s.lA.toInt).2) := rfl

/-- Settles O42: both checks end the square root before any Newton step, and the completion writes what
they answer. -/
theorem sqrtChecksItsOperandFirst : Obligations.SqrtChecksItsOperandFirst := by
  unfold Obligations.SqrtChecksItsOperandFirst
  refine ⟨fun _ => sqrt_neg, sqrt_zero, fun s h => ?_, fun s h => ?_⟩
  · rw [exec_sqrt, sqrt_neg h, finish_error, ErrorKind.code]
  · rw [exec_sqrt, h, sqrt_zero, finish_ok]
    rfl

/-! ## One Newton step (R132) -/

/-- The floor quotient `(fdiv(x², SCALE) + value)·SCALE / 2x`, the value of a Newton step that raises
nothing (`newtonStep_of_fits`). -/
def newtonNext (value x : Int) : Int := (x * x / 10 ^ 27 + value) * 10 ^ 27 / (2 * x)

/-- The four values of a Newton step are in the 256-bit range. -/
def newtonFits (value x : Int) : Prop :=
  inRange (x * x / 10 ^ 27) ∧ inRange (x * x / 10 ^ 27 + value) ∧ inRange (2 * x) ∧
    inRange (newtonNext value x)

/-- `mul` of a product that is not negative rounds down. -/
theorem mul_eq_chk_ediv {x y : Int} (h : 0 ≤ x * y) : mul x y = chk (x * y / 10 ^ 27) := by
  rw [mul_eq_chk_tdiv, Int.tdiv_eq_ediv_of_nonneg h]

/-- `div` of a dividend that is not negative rounds down when the divisor is positive. -/
theorem div_eq_chk_ediv {x y : Int} (hx : 0 ≤ x) (hy : 0 < y) : div x y = chk (x * 10 ^ 27 / y) := by
  rw [div_eq_chk_tdiv x hy.ne', Int.tdiv_eq_ediv_of_nonneg (by positivity)]

theorem sq_ediv_scale_nonneg (x : Int) : 0 ≤ x * x / 10 ^ 27 :=
  Int.ediv_nonneg (mul_self_nonneg x) (by decide)

section Step

variable {value x : Int} (hv : 1 ≤ value) (hx : 1 ≤ x)
include hv hx

/-- The division of a Newton step, whose dividend and divisor are both positive. -/
theorem div_of_newton :
    div (x * x / 10 ^ 27 + value) (2 * x) = chk (newtonNext value x) :=
  div_eq_chk_ediv (add_nonneg (sq_ediv_scale_nonneg x) (by omega)) (by omega)

theorem newtonStep_of_fits (h : newtonFits value x) :
    newtonStep value x = .ok (newtonNext value x) := by
  obtain ⟨hp, hq, hd, hz⟩ := h
  refine newtonStep_eq_ok.2 ⟨x * x / 10 ^ 27, x * x / 10 ^ 27 + value, 2 * x, ?_, ?_, ?_, ?_⟩
  · rw [mul_eq_chk_ediv (mul_self_nonneg x), chk_of_inRange hp]
  · exact chk_of_inRange hq
  · exact (mul_scale_multiple 2 x).trans (chk_of_inRange hd)
  · rw [div_of_newton hv hx, chk_of_inRange hz]

theorem newtonStep_of_not_fits (h : ¬ newtonFits value x) :
    newtonStep value x = .error .overflow := by
  have hadd (p : Int) : add p value = chk (p + value) := rfl
  have hdbl : mul (2 * Config.scale) x = chk (2 * x) := mul_scale_multiple 2 x
  unfold newtonStep
  rw [mul_eq_chk_ediv (mul_self_nonneg x), hdbl]
  by_cases hp : inRange (x * x / 10 ^ 27)
  case neg => simp only [chk_of_not_inRange hp]
  by_cases hq : inRange (x * x / 10 ^ 27 + value)
  case neg => simp only [chk_of_inRange hp, hadd, chk_of_not_inRange hq]
  by_cases hd : inRange (2 * x)
  case neg => simp only [chk_of_inRange hp, hadd, chk_of_inRange hq, chk_of_not_inRange hd]
  have hz : ¬ inRange (newtonNext value x) := fun hz => h ⟨hp, hq, hd, hz⟩
  simp only [chk_of_inRange hp, hadd, chk_of_inRange hq, chk_of_inRange hd, div_of_newton hv hx,
    chk_of_not_inRange hz]

/-- A step that raises nothing had its four values in range, and gives the recurrence's value. -/
theorem fits_of_newtonStep_ok {z : Int} (h : newtonStep value x = .ok z) :
    newtonFits value x ∧ z = newtonNext value x := by
  by_cases hf : newtonFits value x
  · rw [newtonStep_of_fits hv hx hf] at h
    exact ⟨hf, (Except.ok.inj h).symm⟩
  · rw [newtonStep_of_not_fits hv hx hf] at h
    cases h

end Step

/-- Settles O44: the four calls are `chk` of the four values of the recurrence. -/
theorem newtonStepIsTheRecurrence : Obligations.NewtonStepIsTheRecurrence := by
  unfold Obligations.NewtonStepIsTheRecurrence
  rintro value x p q d z hv hx rfl rfl rfl rfl
  exact ⟨newtonStep_of_fits hv hx, newtonStep_of_not_fits hv hx⟩

/-! ## Bounds on the recurrence (R136, R138) -/

section Bounds

variable {value x : Int} (hx : 1 ≤ x)
include hx

/-- A new estimate is at least every `L` with `L² ≤ (value − 1)·SCALE + 1`: the truncation of `x²` loses
less than SCALE, and `2·x·L ≤ x² + L²`. -/
theorem le_newtonNext {L : Int} (hL : L * L ≤ (value - 1) * 10 ^ 27 + 1) :
    L ≤ newtonNext value x := by
  have hfloor : x * x < (x * x / 10 ^ 27 + 1) * 10 ^ 27 :=
    Int.lt_ediv_add_one_mul_self _ (by decide)
  have hsq : 0 ≤ (x - L) * (x - L) := mul_self_nonneg _
  rw [newtonNext, Int.le_ediv_iff_mul_le (by omega)]
  linarith only [hL, hfloor, hsq]

/-- R136: the estimates stay at least 1. -/
theorem one_le_newtonNext (hv : 1 ≤ value) : 1 ≤ newtonNext value x :=
  le_newtonNext hx (by omega)

/-- Every truncation only lowers the value: `N(x) ≤ (x² + value·SCALE) / 2x` (R138). -/
theorem newtonNext_mul_le : newtonNext value x * (2 * x) ≤ x * x + value * 10 ^ 27 := by
  have hfloor : x * x / 10 ^ 27 * 10 ^ 27 ≤ x * x := Int.ediv_mul_le _ (by decide)
  have hquot : newtonNext value x * (2 * x) ≤ (x * x / 10 ^ 27 + value) * 10 ^ 27 :=
    Int.ediv_mul_le _ (by omega)
  linarith only [hfloor, hquot]

end Bounds

/-! ## The loop (R133, R136) -/

theorem one_le_seed {value : Int} (hv : 1 ≤ value) : 1 ≤ seed value := by
  unfold seed
  omega

theorem one_le_of_newtonStep_ok {value x z : Int} (hv : 1 ≤ value) (hx : 1 ≤ x)
    (h : newtonStep value x = .ok z) : 1 ≤ z :=
  (fits_of_newtonStep_ok hv hx h).2 ▸ one_le_newtonNext hx hv

/-- Fuel for the first estimate is never used up: the loop ends by the rule's own tests, after at most one
step for each unit of fuel. -/
theorem newtonRun_newtonLoop {value : Int} (hv : 1 ≤ value) (fuel : Nat) {x : Int} (n : Nat)
    (hx : 1 ≤ x) (hfuel : x ≤ fuel) :
    NewtonRun value x n (newtonLoop value fuel x n).1 (newtonLoop value fuel x n).2 ∧
      (newtonLoop value fuel x n).2 ≤ n + fuel := by
  induction fuel generalizing x n with
  | zero => omega
  | succ fuel ih =>
    rcases hstep : newtonStep value x with e | x'
    · rw [newtonLoop_of_error fuel n hstep]
      exact ⟨.raised hstep, by omega⟩
    by_cases hle : x ≤ x'
    · rw [newtonLoop_of_le fuel n hstep hle]
      exact ⟨.stopped hstep hle, by omega⟩
    · have hlt : x' < x := not_le.1 hle
      obtain ⟨hrun, hcount⟩ := ih (n + 1) (one_le_of_newtonStep_ok hv hx hstep) (by omega)
      rw [newtonLoop_of_lt fuel n hstep hlt]
      exact ⟨.continued hstep hlt hrun, by omega⟩

/-- Past a first step that raises nothing, the square root is the end of the rule's loop, within the bound
of R136. -/
theorem newtonRun_sqrt {value x : Int} (hv : 1 ≤ value) (h : newtonStep value (seed value) = .ok x) :
    NewtonRun value x 1 (sqrt value).1 (sqrt value).2 ∧ ((sqrt value).2 : Int) ≤ x + 1 := by
  have hx : 1 ≤ x := one_le_of_newtonStep_ok hv (one_le_seed hv) h
  rw [sqrt_of_first_ok hv h]
  obtain ⟨hrun, hcount⟩ := newtonRun_newtonLoop hv x.toNat 1 hx (Int.self_le_toNat x)
  exact ⟨hrun, by omega⟩

/-- Settles O43: the recurrence keeps estimates at least 1, and each further step lowers the estimate. -/
theorem newtonEstimatesStayPositiveAndEnd : Obligations.NewtonEstimatesStayPositiveAndEnd := by
  unfold Obligations.NewtonEstimatesStayPositiveAndEnd
  refine ⟨fun value x z => one_le_of_newtonStep_ok, fun value x hv h => ?_⟩
  obtain ⟨hrun, hcount⟩ := newtonRun_sqrt hv h
  exact ⟨_, _, hrun, hcount, rfl⟩

/-- Settles O45: past the first step `sqrt` is the rule's loop, and a first step that raises ends it. -/
theorem sqrtFollowsTheNewtonLoop : Obligations.SqrtFollowsTheNewtonLoop := by
  unfold Obligations.SqrtFollowsTheNewtonLoop
  exact fun value hv => ⟨fun x h => (newtonRun_sqrt hv h).1, fun e h => sqrt_of_first_error hv h⟩

/-! ## The root is not above the true one (R138) -/

/-- The loop returns an estimate whose next one is not smaller. -/
theorem NewtonRun.next_not_smaller {value x r : Int} {n m : Nat} (h : NewtonRun value x n (.ok r) m)
    (hv : 1 ≤ value) (hx : 1 ≤ x) : 1 ≤ r ∧ ∃ z, newtonStep value r = .ok z ∧ r ≤ z := by
  generalize hr : (Except.ok r : Result) = res at h
  induction h with
  | raised => cases hr
  | stopped hstep hle =>
    cases hr
    exact ⟨hx, _, hstep, hle⟩
  | continued hstep _ _ ih => exact ih (one_le_of_newtonStep_ok hv hx hstep) hr

/-- What a positive operand's returned root is. -/
theorem next_not_smaller_of_sqrt_ok {value r : Int} {n : Nat} (hv : 1 ≤ value)
    (h : sqrt value = (.ok r, n)) : 1 ≤ r ∧ ∃ z, newtonStep value r = .ok z ∧ r ≤ z := by
  rcases hstep : newtonStep value (seed value) with e | x
  · rw [sqrt_of_first_error hv hstep] at h
    cases h
  · have hrun := (newtonRun_sqrt hv hstep).1
    rw [h] at hrun
    exact hrun.next_not_smaller hv (one_le_of_newtonStep_ok hv (one_le_seed hv) hstep)

/-- An estimate whose next one is not smaller is at most the true root. -/
theorem sq_le_of_le_newtonNext {value r : Int} (hr : 1 ≤ r) (h : r ≤ newtonNext value r) :
    r * r ≤ value * 10 ^ 27 := by
  have hmul : r * (2 * r) ≤ newtonNext value r * (2 * r) := mul_le_mul_of_nonneg_right h (by omega)
  linarith only [hmul, newtonNext_mul_le (value := value) hr]

/-- Settles O47: a returned root is 0 for the operand 0, or an estimate whose next one is not smaller. -/
theorem sqrtIsAtMostTheTrueRoot : Obligations.SqrtIsAtMostTheTrueRoot := by
  unfold Obligations.SqrtIsAtMostTheTrueRoot
  intro value r n h
  rcases lt_trichotomy value 0 with hneg | rfl | hv
  · rw [sqrt_neg hneg] at h
    cases h
  · rw [sqrt_zero] at h
    cases h
    exact ⟨by decide, 0, by decide, le_rfl⟩
  · obtain ⟨hr, z, hstep, hle⟩ := next_not_smaller_of_sqrt_ok hv h
    obtain ⟨⟨hp, -⟩, rfl⟩ := fits_of_newtonStep_ok hv hr hstep
    have hsq : r * r ≤ value * 10 ^ 27 := sq_le_of_le_newtonNext hr hle
    refine ⟨hsq, r * r / 10 ^ 27, ?_, Int.ediv_le_of_le_mul (by decide) hsq⟩
    rw [mul_eq_chk_ediv (mul_self_nonneg r), chk_of_inRange hp]

/-! ## The overflow threshold (R140) -/

/-- What every estimate meets when the operand is from 1 to V_MAX. The lower bound keeps `value·SCALE / 2x`
small, so that no step leaves the range and no estimate passes the greatest seed. -/
def estimateBounded (value x : Int) : Prop := 1 ≤ x ∧ value ≤ 2 ^ 80 * x ∧ x ≤ seed sqrtMax

theorem estimateBounded_seed {value : Int} (hv : 1 ≤ value) (hmax : value ≤ sqrtMax) :
    estimateBounded value (seed value) := by
  unfold estimateBounded seed
  omega

/-- `seed sqrtMax` squared, over SCALE, still leaves room for an operand of `sqrtMax`. -/
theorem sq_ediv_add_le {value x : Int} (hx : 1 ≤ x) (hseed : x ≤ seed sqrtMax) (hmax : value ≤ sqrtMax) :
    x * x / 10 ^ 27 + value ≤ 2 ^ 255 - 1 := by
  have hsq : x * x ≤ seed sqrtMax * seed sqrtMax :=
    mul_self_le_mul_self (by omega) hseed
  calc x * x / 10 ^ 27 + value
      ≤ seed sqrtMax * seed sqrtMax / 10 ^ 27 + sqrtMax :=
        add_le_add (Int.ediv_le_ediv (by decide) hsq) hmax
    _ ≤ 2 ^ 255 - 1 := by decide

/-- The square of a lower bound for the estimates, as `le_newtonNext` asks for it. -/
theorem succ_sq_le {k n : Int} (h0 : 0 ≤ k) (h94 : k ≤ 2 ^ 94) (hn : 2 ^ 80 * k ≤ n) :
    (k + 1) * (k + 1) ≤ n * 10 ^ 27 + 1 := by
  have hsq : k * k ≤ 2 ^ 94 * k := mul_le_mul_of_nonneg_right h94 h0
  linarith only [h0, hsq, hn]

section Threshold

variable {value x : Int} (hv : 1 ≤ value) (hmax : value ≤ sqrtMax) (hb : estimateBounded value x)
include hv hmax hb

/-- The new estimate is within the bounds again: above by `N(x) ≤ (x + 2^80·SCALE) / 2`, below because
`(value − 1) / 2^80 + 1` squared is at most `(value − 1)·SCALE + 1`. -/
theorem estimateBounded_newtonNext : estimateBounded value (newtonNext value x) := by
  obtain ⟨hx, hlow, hhigh⟩ := hb
  refine ⟨one_le_newtonNext hx hv, ?lower, ?upper⟩
  case lower =>
    unfold sqrtMax at hmax
    have hL : (value - 1) / 2 ^ 80 + 1 ≤ newtonNext value x :=
      le_newtonNext hx (succ_sq_le (by omega) (by omega) (by omega))
    omega
  case upper =>
    have hstep : newtonNext value x * 2 ≤ x + 2 ^ 80 * 10 ^ 27 := by
      refine le_of_mul_le_mul_right ?_ (by omega : 0 < x)
      linarith only [newtonNext_mul_le (value := value) hx, hlow]
    unfold seed sqrtMax at *
    omega

theorem newtonFits_of_estimateBounded : newtonFits value x := by
  obtain ⟨hz, -, hzhigh⟩ := estimateBounded_newtonNext hv hmax hb
  obtain ⟨hx, -, hhigh⟩ := hb
  have hq : x * x / 10 ^ 27 + value ≤ 2 ^ 255 - 1 := sq_ediv_add_le hx hhigh hmax
  have hp : 0 ≤ x * x / 10 ^ 27 := sq_ediv_scale_nonneg x
  unfold newtonFits inRange
  unfold seed sqrtMax at *
  omega

theorem newtonStep_of_estimateBounded : newtonStep value x = .ok (newtonNext value x) :=
  newtonStep_of_fits hv hb.1 (newtonFits_of_estimateBounded hv hmax hb)

end Threshold

/-- A loop that starts from a bounded estimate raises nothing. -/
theorem NewtonRun.ok_of_estimateBounded {value x : Int} {n m : Nat} {res : Result}
    (h : NewtonRun value x n res m) (hv : 1 ≤ value) (hmax : value ≤ sqrtMax)
    (hb : estimateBounded value x) : ∃ r, res = .ok r := by
  induction h with
  | raised hstep =>
    rw [newtonStep_of_estimateBounded hv hmax hb] at hstep
    cases hstep
  | stopped => exact ⟨_, rfl⟩
  | continued hstep _ _ ih =>
    rw [newtonStep_of_estimateBounded hv hmax hb] at hstep
    cases hstep
    exact ih (estimateBounded_newtonNext hv hmax hb)

/-- From 1 to V_MAX the square root raises nothing. -/
theorem sqrt_ok_of_le_sqrtMax {value : Int} (hv : 1 ≤ value) (hmax : value ≤ sqrtMax) :
    ∃ r, (sqrt value).1 = .ok r := by
  have hb := estimateBounded_seed hv hmax
  have hstep := newtonStep_of_estimateBounded hv hmax hb
  exact (newtonRun_sqrt hv hstep).1.ok_of_estimateBounded hv hmax (estimateBounded_newtonNext hv hmax hb)

/-- Above V_MAX the sum `q` of the first step leaves the range. -/
theorem sqrt_overflow_of_gt_sqrtMax {value : Int} (hmax : sqrtMax < value) :
    sqrt value = (.error .overflow, 1) := by
  have hv : 1 ≤ value := le_trans (by decide) hmax.le
  have hseed : seed (sqrtMax + 1) ≤ seed value := by unfold seed; omega
  have hsq : seed (sqrtMax + 1) * seed (sqrtMax + 1) ≤ seed value * seed value :=
    mul_self_le_mul_self (by decide) hseed
  have hq : 2 ^ 255 - 1 < seed value * seed value / 10 ^ 27 + value :=
    calc (2 : Int) ^ 255 - 1
        < seed (sqrtMax + 1) * seed (sqrtMax + 1) / 10 ^ 27 + (sqrtMax + 1) := by decide
      _ ≤ seed value * seed value / 10 ^ 27 + value :=
        add_le_add (Int.ediv_le_ediv (by decide) hsq) hmax
  refine sqrt_of_first_error hv (newtonStep_of_not_fits hv (one_le_seed hv) ?_)
  rintro ⟨-, ⟨-, hle⟩, -⟩
  exact hq.not_ge hle

/-- Settles O49: up to V_MAX no step raises, and above it the first one does. -/
theorem sqrtOverflowThreshold : Obligations.SqrtOverflowThreshold := by
  unfold Obligations.SqrtOverflowThreshold
  intro value
  change (_ ↔ sqrtMax < value) ∧ _
  by_cases hmax : sqrtMax < value
  · rw [sqrt_overflow_of_gt_sqrtMax hmax]
    exact ⟨iff_of_true rfl hmax, fun _ => rfl⟩
  have hne : (sqrt value).1 ≠ .error .overflow := by
    rcases lt_trichotomy value 0 with hneg | rfl | hv
    · rw [sqrt_neg hneg]
      decide
    · rw [sqrt_zero]
      decide
    · obtain ⟨r, hr⟩ := sqrt_ok_of_le_sqrtMax hv (not_lt.1 hmax)
      rw [hr]
      nofun
  exact ⟨iff_of_false hne hmax, fun h => absurd h hne⟩

end Sys2Proof.Machine
end

section
/-! PROOFS. The quadratic evaluator (spec/42_solve.md R150 to R164): what each stage of the pipeline can
raise, the size of its values on 128-bit coefficients, and which root it selects. -/

namespace Sys2Proof.Machine

/-! ## What each stage can raise (R151 to R158) -/

theorem overflow_of_chk_error {v : Int} {e : ErrorKind} (h : chk v = .error e) : e = .overflow :=
  (chk_eq_error.1 h).1

theorem divisionByZero_or_overflow_of_div_error {x y : Int} {e : ErrorKind} (h : div x y = .error e) :
    e = .divisionByZero ∨ e = .overflow := by
  by_cases hy : y = 0
  · rw [hy, div_zero] at h
    exact .inl (Except.error.inj h).symm
  · rw [div_of_ne_zero hy] at h
    exact .inr (overflow_of_chk_error h)

theorem overflow_of_discriminant_error {a b c : Int} {e : ErrorKind}
    (h : discriminant a b c = .error e) : e = .overflow := by
  unfold discriminant at h
  split at h
  next hb => exact overflow_of_chk_error (hb.trans h)
  split at h
  next hac => exact overflow_of_chk_error (hac.trans h)
  split at h
  next hac4 => exact overflow_of_chk_error (hac4.trans h)
  exact overflow_of_chk_error h

/-- On an operand that is not negative the square root raises only Overflow: V_MAX decides. -/
theorem overflow_of_sqrt_error {value : Int} {e : ErrorKind} {n : Nat} (hv : 0 ≤ value)
    (h : sqrt value = (.error e, n)) : e = .overflow := by
  rcases hv.eq_or_lt with rfl | hpos
  · rw [sqrt_zero] at h
    cases h
  by_cases hmax : sqrtMax < value
  · rw [sqrt_overflow_of_gt_sqrtMax hmax] at h
    cases h
    rfl
  · obtain ⟨r, hr⟩ := sqrt_ok_of_le_sqrtMax hpos (not_lt.1 hmax)
    rw [h] at hr
    cases hr

theorem largerRoot_error_cases {a b sd : Int} {e : ErrorKind} (h : largerRoot a b sd = .error e) :
    e = .divisionByZero ∨ e = .overflow ∨ e = .negativeRoot := by
  unfold largerRoot at h
  dsimp only at h
  split at h
  next ht1 => exact .inr (.inl (overflow_of_chk_error (ht1.trans h)))
  split at h
  next hroot1 => exact (divisionByZero_or_overflow_of_div_error (hroot1.trans h)).imp_right .inl
  split at h
  next ht2 => exact .inr (.inl (overflow_of_chk_error (ht2.trans h)))
  split at h
  next hroot2 => exact (divisionByZero_or_overflow_of_div_error (hroot2.trans h)).imp_right .inl
  split at h
  · cases h
    exact .inr (.inr rfl)
  · cases h

/-! ## The discriminant (R151 to R153, R160) -/

/-- `b² − 4ac` in scaled arithmetic over the integers: the value of `discriminant` wherever it raises
nothing (`eq_scaledDiscriminant_of_ok`), as on all 128-bit coefficients (`discriminant_of_coefRange`). -/
def scaledDiscriminant (a b c : Int) : Int :=
  Int.tdiv (b * b) (10 ^ 27) - 4 * Int.tdiv (a * c) (10 ^ 27)

theorem mul_four_scale (x : Int) : mul (4 * Config.scale) x = chk (4 * x) := mul_scale_multiple 4 x

theorem eq_scaledDiscriminant_of_ok {a b c disc : Int} (h : discriminant a b c = .ok disc) :
    disc = scaledDiscriminant a b c := by
  obtain ⟨bSquared, ac, ac4, hb, hac, hac4, hsub⟩ := discriminant_eq_ok.1 h
  rw [mul_eq_chk_tdiv] at hb hac
  rw [mul_four_scale] at hac4
  rw [(sub_eq_ok.1 hsub).1, (chk_eq_ok.1 hac4).1, (chk_eq_ok.1 hac).1, (chk_eq_ok.1 hb).1,
    scaledDiscriminant]

/-- `b²` is not negative, so only a positive `ac` can make the discriminant negative. -/
theorem scaledDiscriminant_nonneg {a b c : Int} (h : a * c ≤ 0) : 0 ≤ scaledDiscriminant a b c := by
  have hbb : 0 ≤ Int.tdiv (b * b) (10 ^ 27) := Int.tdiv_nonneg (mul_self_nonneg b) (by decide)
  have hac : Int.tdiv (a * c) (10 ^ 27) ≤ Int.tdiv 0 (10 ^ 27) := Int.tdiv_le_tdiv (by decide) h
  rw [Int.zero_tdiv] at hac
  unfold scaledDiscriminant
  omega

/-- Everything `solve` can raise, and when it raises NegativeDiscriminant. -/
theorem solve_error_cases {a b c : Int} {e : ErrorKind} (h : (solve a b c).1 = .error e) :
    (e = .negativeDiscriminant ∧ scaledDiscriminant a b c < 0) ∨
      e = .divisionByZero ∨ e = .overflow ∨ e = .negativeRoot := by
  rcases hdisc : discriminant a b c with e' | disc
  · rw [solve_of_discriminant_error hdisc] at h
    cases h
    exact .inr (.inr (.inl (overflow_of_discriminant_error hdisc)))
  by_cases hneg : disc < 0
  · rw [solve_of_discriminant_neg hdisc hneg] at h
    cases h
    exact .inl ⟨rfl, eq_scaledDiscriminant_of_ok hdisc ▸ hneg⟩
  have hnn : 0 ≤ disc := not_lt.1 hneg
  rcases hsqrt : sqrt disc with ⟨e' | sd, n⟩
  · rw [solve_of_sqrt_error hdisc hnn hsqrt] at h
    cases h
    exact .inr (.inr (.inl (overflow_of_sqrt_error hnn hsqrt)))
  · rw [solve_of_sqrt_ok hdisc hnn hsqrt] at h
    exact .inr (largerRoot_error_cases h)

/-- Settles O53: a negative discriminant needs a positive product `ac`. -/
theorem negativeDiscriminantNeedsLikeSigns : Obligations.NegativeDiscriminantNeedsLikeSigns := by
  unfold Obligations.NegativeDiscriminantNeedsLikeSigns
  intro a b c h
  rcases solve_error_cases h with ⟨-, hneg⟩ | h' | h' | h'
  case inl =>
    have hac : 0 < a * c := not_le.1 fun hle => hneg.not_ge (scaledDiscriminant_nonneg hle)
    rcases mul_pos_iff.1 hac with ⟨ha, hc⟩ | ⟨ha, hc⟩
    · exact ⟨ha.ne', hc.ne', by rw [Int.sign_eq_one_of_pos ha, Int.sign_eq_one_of_pos hc]⟩
    · exact ⟨ha.ne, hc.ne, by rw [Int.sign_eq_neg_one_of_neg ha, Int.sign_eq_neg_one_of_neg hc]⟩
  all_goals cases h'

/-! ## Steps 4 to 8 (R155 to R158, R162) -/

/-- With steps 4 and 5 raising nothing, the larger root is tested and returned. -/
theorem largerRoot_of_roots {a b sd t1 t2 root1 root2 : Int} (ht1 : sub (-b) sd = .ok t1)
    (hroot1 : div t1 (2 * a) = .ok root1) (ht2 : add (-b) sd = .ok t2)
    (hroot2 : div t2 (2 * a) = .ok root2) :
    largerRoot a b sd =
      if max root1 root2 < 0 then .error .negativeRoot else .ok (max root1 root2) := by
  simp only [largerRoot, ht1, hroot1, ht2, hroot2]

/-- A zero leading coefficient makes the first division raise (R161). -/
theorem largerRoot_zero {b sd t1 : Int} (ht1 : sub (-b) sd = .ok t1) :
    largerRoot 0 b sd = .error .divisionByZero := by
  simp only [largerRoot, ht1, mul_zero, div_zero]

section Monotone

variable {t t' w q q' : Int} (hle : t ≤ t') (hq : div t w = .ok q) (hq' : div t' w = .ok q')
include hle hq hq'

theorem div_le_div_of_pos (hw : 0 < w) : q ≤ q' := by
  rw [eq_tdiv_of_div hq, eq_tdiv_of_div hq', tdiv_eq_int_tdiv, tdiv_eq_int_tdiv]
  exact Int.tdiv_le_tdiv hw (mul_le_mul_of_nonneg_right hle (by decide))

theorem div_le_div_of_neg (hw : w < 0) : q' ≤ q := by
  rw [eq_tdiv_of_div hq, eq_tdiv_of_div hq', tdiv_eq_int_tdiv, tdiv_eq_int_tdiv, ← neg_neg w,
    Int.tdiv_neg, Int.tdiv_neg _ (-w)]
  exact neg_le_neg (Int.tdiv_le_tdiv (neg_pos.2 hw) (mul_le_mul_of_nonneg_right hle (by decide)))

end Monotone

/-- Settles O54: the two numerators are in order, and the quotient by `2a` keeps or turns that order. -/
theorem selectedRootFollowsSignOfA : Obligations.SelectedRootFollowsSignOfA := by
  unfold Obligations.SelectedRootFollowsSignOfA
  refine ⟨fun t t' w q q' hle hq hq' => ⟨div_le_div_of_pos hle hq hq', div_le_div_of_neg hle hq hq'⟩, ?_⟩
  intro a b sd t1 t2 root1 root2 hsd ht1 hroot1 ht2 hroot2
  have hdiff : t2 - t1 = 2 * sd := by
    rw [(add_eq_ok.1 ht2).1, (sub_eq_ok.1 ht1).1]
    ring
  have hle : t1 ≤ t2 := by omega
  refine ⟨hdiff, fun ha => ?_, fun ha => ?_⟩
  · have hmax : max root1 root2 = root2 :=
      max_eq_right (div_le_div_of_pos hle hroot1 hroot2 (by omega))
    exact ⟨hmax, by rw [largerRoot_of_roots ht1 hroot1 ht2 hroot2, hmax]⟩
  · have hmax : max root1 root2 = root1 :=
      max_eq_left (div_le_div_of_neg hle hroot1 hroot2 (by omega))
    exact ⟨hmax, by rw [largerRoot_of_roots ht1 hroot1 ht2 hroot2, hmax]⟩

/-- Settles O55: with the square root 0 both numerators are `-b`, so both roots are `div(-b, 2a)`. -/
theorem zeroDiscriminantGivesDoubleRoot : Obligations.ZeroDiscriminantGivesDoubleRoot := by
  unfold Obligations.ZeroDiscriminantGivesDoubleRoot
  refine ⟨sqrt_zero, fun a b c r hb hdisc hr => ?_⟩
  obtain ⟨hlo, hhi⟩ := hb
  have hrange : inRange (-b) := by unfold inRange; omega
  have ht1 : sub (-b) 0 = .ok (-b) := by rw [sub, sub_zero, chk_of_inRange hrange]
  have ht2 : add (-b) 0 = .ok (-b) := by rw [add, add_zero, chk_of_inRange hrange]
  rw [solve_of_sqrt_ok hdisc le_rfl sqrt_zero, largerRoot_of_roots ht1 hr ht2 hr, max_self]

/-! ## The size of the values on 128-bit coefficients (R150, R165) -/

theorem abs_le_of_coefRange {x : Int} (h : coefRange x) : |x| ≤ 2 ^ 127 := by
  obtain ⟨hlo, hhi⟩ := h
  exact abs_le.2 ⟨hlo, by omega⟩

theorem abs_scaledProduct_le {x y : Int} (hx : coefRange x) (hy : coefRange y) :
    |Int.tdiv (x * y) (10 ^ 27)| ≤ 2 ^ 165 := by
  have hxy : |x * y| ≤ 2 ^ 127 * 2 ^ 127 := by
    rw [abs_mul]
    exact mul_le_mul (abs_le_of_coefRange hx) (abs_le_of_coefRange hy) (abs_nonneg y) (by decide)
  calc |Int.tdiv (x * y) (10 ^ 27)| = |x * y| / 10 ^ 27 := by
        rw [← tdiv_eq_int_tdiv, abs_tdiv, abs_ten_pow]
    _ ≤ 2 ^ 127 * 2 ^ 127 / 10 ^ 27 := Int.ediv_le_ediv (by decide) hxy
    _ ≤ 2 ^ 165 := by decide

/-- A square root of a discriminant below `5·2^165`. -/
theorem lt_of_sq_le_scaled {sd disc : Int} (hsq : sd * sd ≤ disc * 10 ^ 27) (hdisc : disc ≤ 5 * 2 ^ 165) :
    sd < 2 ^ 129 := by
  refine lt_of_mul_self_lt_mul_self₀ (by decide) ?_
  omega

/-- A square root that raises nothing is not negative. -/
theorem sqrt_ok_nonneg {value sd : Int} {n : Nat} (hv : 0 ≤ value) (h : sqrt value = (.ok sd, n)) :
    0 ≤ sd := by
  rcases hv.eq_or_lt with rfl | hpos
  · rw [sqrt_zero] at h
    cases h
    exact le_rfl
  · exact zero_le_one.trans (next_not_smaller_of_sqrt_ok hpos h).1

section Coefficients

variable {a b c : Int} (ha : coefRange a) (hb : coefRange b) (hc : coefRange c)
include ha hb hc

theorem scaledDiscriminant_le : scaledDiscriminant a b c ≤ 5 * 2 ^ 165 := by
  obtain ⟨-, hbb⟩ := abs_le.1 (abs_scaledProduct_le hb hb)
  obtain ⟨hac, -⟩ := abs_le.1 (abs_scaledProduct_le ha hc)
  unfold scaledDiscriminant
  omega

/-- Step 1 raises nothing. -/
theorem discriminant_of_coefRange : discriminant a b c = .ok (scaledDiscriminant a b c) := by
  obtain ⟨hbb, hbb'⟩ := abs_le.1 (abs_scaledProduct_le hb hb)
  obtain ⟨hac, hac'⟩ := abs_le.1 (abs_scaledProduct_le ha hc)
  refine discriminant_eq_ok.2 ⟨_, _, 4 * Int.tdiv (a * c) (10 ^ 27),
    (mul_eq_chk_tdiv b b).trans (chk_of_inRange ?_), (mul_eq_chk_tdiv a c).trans (chk_of_inRange ?_),
    (mul_four_scale _).trans (chk_of_inRange ?_), chk_of_inRange ?_⟩
  all_goals
    unfold inRange
    omega

/-- Step 3 raises nothing, and its root leaves steps 4 and 5 room. -/
theorem sqrt_of_scaledDiscriminant (h : 0 ≤ scaledDiscriminant a b c) :
    ∃ sd n, sqrt (scaledDiscriminant a b c) = (.ok sd, n) ∧ 0 ≤ sd ∧ sd < 2 ^ 129 := by
  have hle := scaledDiscriminant_le ha hb hc
  rcases hsqrt : sqrt (scaledDiscriminant a b c) with ⟨e | sd, n⟩
  · have hoverflow : (sqrt (scaledDiscriminant a b c)).1 = .error .overflow := by
      rw [hsqrt, overflow_of_sqrt_error h hsqrt]
    have hgt := (sqrtOverflowThreshold _).1.1 hoverflow
    omega
  · have hsq := (sqrtIsAtMostTheTrueRoot _ _ _ hsqrt).1
    exact ⟨sd, n, rfl, sqrt_ok_nonneg h hsqrt, lt_of_sq_le_scaled hsq hle⟩

/-- Past step 2 the pipeline answers what steps 4 to 8 answer, with a root that is not too large for
them. -/
theorem solve_of_coefRange (h : 0 ≤ scaledDiscriminant a b c) :
    ∃ sd n, sqrt (scaledDiscriminant a b c) = (.ok sd, n) ∧ 0 ≤ sd ∧ sd < 2 ^ 129 ∧
      solve a b c = (largerRoot a b sd, n) := by
  obtain ⟨sd, n, hsqrt, hnn, hlt⟩ := sqrt_of_scaledDiscriminant ha hb hc h
  exact ⟨sd, n, hsqrt, hnn, hlt, solve_of_sqrt_ok (discriminant_of_coefRange ha hb hc) h hsqrt⟩

end Coefficients

section Roots

variable {b sd : Int} (hb : coefRange b) (hnn : 0 ≤ sd) (hlt : sd < 2 ^ 129)
include hb hnn hlt

/-- Both numerators of step 5 are in range, with room for the scaling of `div`. -/
theorem abs_numerators_le : |-b - sd| ≤ 2 ^ 130 ∧ |-b + sd| ≤ 2 ^ 130 := by
  obtain ⟨hlo, hhi⟩ := hb
  exact ⟨abs_le.2 (by omega), abs_le.2 (by omega)⟩

theorem sub_neg_sqrt : sub (-b) sd = .ok (-b - sd) := by
  obtain ⟨hlo, hhi⟩ := abs_le.1 (abs_numerators_le hb hnn hlt).1
  exact chk_of_inRange (by unfold inRange; omega)

theorem add_neg_sqrt : add (-b) sd = .ok (-b + sd) := by
  obtain ⟨hlo, hhi⟩ := abs_le.1 (abs_numerators_le hb hnn hlt).2
  exact chk_of_inRange (by unfold inRange; omega)

end Roots

/-- A scaled quotient is at most its scaled dividend, which is in range here. -/
theorem div_of_abs_le {t w : Int} (hw : w ≠ 0) (ht : |t| ≤ 2 ^ 130) :
    div t w = .ok (Int.tdiv (t * 10 ^ 27) w) := by
  have habs : |Int.tdiv (t * 10 ^ 27) w| ≤ 2 ^ 130 * 10 ^ 27 :=
    calc |Int.tdiv (t * 10 ^ 27) w| = |t * 10 ^ 27| / |w| := by rw [← tdiv_eq_int_tdiv, abs_tdiv]
      _ ≤ |t * 10 ^ 27| := Int.ediv_le_self _ (abs_nonneg _)
      _ = |t| * 10 ^ 27 := by rw [abs_mul, abs_ten_pow]
      _ ≤ 2 ^ 130 * 10 ^ 27 := mul_le_mul_of_nonneg_right ht (by decide)
  obtain ⟨hlo, hhi⟩ := abs_le.1 habs
  rw [div_eq_chk_tdiv t hw, chk_of_inRange (by unfold inRange; omega)]

/-- Steps 4 to 8 on a 128-bit `b` and a small root: nothing leaves the range. -/
theorem largerRoot_of_ne_zero {a b sd : Int} (ha : a ≠ 0) (hb : coefRange b) (hnn : 0 ≤ sd)
    (hlt : sd < 2 ^ 129) {root1 root2 : Int} (h1 : root1 = Int.tdiv ((-b - sd) * 10 ^ 27) (2 * a))
    (h2 : root2 = Int.tdiv ((-b + sd) * 10 ^ 27) (2 * a)) :
    largerRoot a b sd =
      if max root1 root2 < 0 then .error .negativeRoot else .ok (max root1 root2) := by
  have h2a : 2 * a ≠ 0 := mul_ne_zero two_ne_zero ha
  obtain ⟨ht1, ht2⟩ := abs_numerators_le hb hnn hlt
  subst h1 h2
  exact largerRoot_of_roots (sub_neg_sqrt hb hnn hlt) (div_of_abs_le h2a ht1)
    (add_neg_sqrt hb hnn hlt) (div_of_abs_le h2a ht2)

/-- Settles O52: with `a = 0` the discriminant is not negative, its square root raises nothing, and the
first division of step 5 raises. -/
theorem solveWithZeroLeadingCoefficient : Obligations.SolveWithZeroLeadingCoefficient := by
  unfold Obligations.SolveWithZeroLeadingCoefficient
  intro b c hb hc
  have ha : coefRange 0 := by unfold coefRange; decide
  obtain ⟨sd, n, -, hnn, hlt, hsolve⟩ :=
    solve_of_coefRange ha hb hc (scaledDiscriminant_nonneg (zero_mul c).le)
  rw [hsolve, largerRoot_zero (sub_neg_sqrt hb hnn hlt)]

/-! ## The SOLVE command (R150, R159) -/

/-- Wrapping a latch to 128 bits reads its low 128 bits as a signed value (R10, R150). -/
theorem wrap128_val (r : Wide) : wrap128 (val r) = (r.extractLsb' 0 128).toInt := by
  have hlow : r.signExtend 128 = r.extractLsb' 0 128 := by
    rw [BitVec.signExtend_eq_setWidth_of_le r (by decide), BitVec.setWidth_eq_extractLsb' (by decide)]
  exact congrArg BitVec.toInt hlow

theorem coefRange_low128 (r : Wide) : coefRange (r.extractLsb' 0 128).toInt :=
  wrap128_val r ▸ coefRange_wrap128 (val r)

theorem exec_solve {s : State} {a b c : Int} (ha : a = (s.lA.extractLsb' 0 128).toInt)
    (hb : b = (s.lB.extractLsb' 0 128).toInt) (hc : c = (s.lC.extractLsb' 0 128).toInt) {r : Result}
    {n : Nat} (h : solve a b c = (r, n)) : exec .solve s = .next (s.finish r n) := by
  have hexec : exec .solve s =
      .next (s.finish (solve s.coefA s.coefB s.coefC).1 (solve s.coefA s.coefB s.coefC).2) := rfl
  rw [hexec, State.coefA, State.coefB, State.coefC, wrap128_val, wrap128_val, wrap128_val, ← ha, ← hb,
    ← hc, h]

/-- A completion with Newton steps that raised nothing. -/
theorem finish_ok_steps (s : State) (v : Int) (n : Nat) :
    s.finish (.ok v) n =
      s.completed (BitVec.ofInt 256 v) 0#4 (BitVec.ofNat 32 (min n (2 ^ 32 - 1))) := rfl

/-- A completion with Newton steps that raised an error. -/
theorem finish_error_steps (s : State) (e : ErrorKind) (n : Nat) :
    s.finish (.error e) n = s.completed 0#256 e.code (BitVec.ofNat 32 (min n (2 ^ 32 - 1))) := rfl

/-- Settles O56: step 2 ends the pipeline on a negative discriminant, and past it `a = 0`, a negative larger
root and any other root are the three ends of steps 4 to 8. -/
theorem solveCommandIsThePipeline : Obligations.SolveCommandIsThePipeline := by
  unfold Obligations.SolveCommandIsThePipeline
  refine ⟨rfl, ?_⟩
  rintro s a b c _ _ _ ha hb hc rfl rfl rfl
  have hrA : coefRange a := ha ▸ coefRange_low128 s.lA
  have hrB : coefRange b := hb ▸ coefRange_low128 s.lB
  have hrC : coefRange c := hc ▸ coefRange_low128 s.lC
  refine ⟨fun hneg => ?_, fun hdisc => ?_⟩
  · have hsolve := solve_of_discriminant_neg (discriminant_of_coefRange hrA hrB hrC) hneg
    rw [exec_solve ha hb hc hsolve, finish_error, ErrorKind.code]
  obtain ⟨sd, n, hsqrt, hnn, hlt, hsolve⟩ := solve_of_coefRange hrA hrB hrC hdisc
  have hexec : exec .solve s = .next (s.finish (largerRoot a b sd) n) := exec_solve ha hb hc hsolve
  refine ⟨sd, n, hsqrt, fun ha0 => ?_, fun ha0 root1 root2 h1 h2 => ?_⟩
  · rw [hexec, ha0, largerRoot_zero (sub_neg_sqrt hrB hnn hlt), finish_error_steps, ErrorKind.code]
  rw [largerRoot_of_ne_zero ha0 hrB hnn hlt h1 h2] at hexec
  refine ⟨fun hroot => ?_, fun hroot => ?_⟩
  · rw [hexec, if_pos hroot, finish_error_steps, ErrorKind.code]
  · rw [hexec, if_neg (not_lt.2 hroot), finish_ok_steps]

end Sys2Proof.Machine
end

section
/-! PROOFS. Illegal command words and the interrupt output (spec/60_exceptions.md R182, R190, R191). -/

namespace Sys2Proof.Machine

/-! ## Illegal command words (R182) -/

/-- A latched word that decodes to no command completes with `IllegalCommand`, whichever of the decoder's
two checks refused it. -/
theorem complete_of_not_legal {s : State} (h : legal s.lOp ≠ true) :
    s.complete = .next s.finishIllegal := by
  unfold State.complete
  cases hd : decode s.lOp with
  | ok i => exact absurd ((exists_decode_eq_ok_iff_legal s.lOp).1 ⟨i, hd⟩) h
  | error e => rfl

/-- Settles O28: such a word is not legal, so the sequencer's turn is the illegal completion. -/
theorem illegalWordCompletesWithIllegalCommand : Obligations.IllegalWordCompletesWithIllegalCommand := by
  unfold Obligations.IllegalWordCompletesWithIllegalCommand
  intro s hb hm hw
  have hlegal : legal s.eventTaken.lOp ≠ true := mt (legal_iff s.lOp).1 hw
  rw [step_of_sequencerMoves hm, State.sequencerTurn, eventTaken_busy, if_pos hb,
    complete_of_not_legal hlegal, State.finishIllegal, finish_error, ErrorKind.code]

/-! ## The interrupt output (R190, R191) -/

theorem irq_iff (s : State) : s.irq = true ↔ s.ie = true ∧ s.done = true := by
  rw [State.irq, Bool.and_eq_true]

theorem irq_of_not_ie {s : State} (h : s.ie = false) : s.irq = false := by
  rw [State.irq, h, Bool.false_and]

/-- A CTRL write moves IE and nothing else. -/
theorem step_of_ctrlWrite {s : State} {w : Word} {rest : List Event}
    (ha : s.agenda = busWrite 0x04 w :: rest) : step s = .next (s.eventTaken.writeCtrl w) := by
  rw [step_of_busWrite ha (by decide) (by decide), ← eventTaken_of_cons ha]
  rfl

/-- A step that clears DONE lowers the interrupt (R191). -/
theorem step_lowers_irq {s : State} (w : Word) {rest : List Event}
    (h : (s.agenda = busWrite 0x08 w :: rest ∧ s.busy = false) ∨
      (s.agenda = busWrite 0x0C w :: rest ∧ w[1] = true) ∨ s.agenda = .reset :: rest) :
    ∃ u, step s = .next u ∧ u.irq = false := by
  obtain ⟨u, hstep, hdone⟩ := step_clears_done h
  exact ⟨u, hstep, irq_of_not_done hdone⟩

/-- Settles O17: a completion sets DONE, a CTRL write moves IE, an ignored CMD write moves neither, and the
other three steps clear DONE. -/
theorem interruptFollowsEnableAndDone : Obligations.InterruptFollowsEnableAndDone := by
  unfold Obligations.InterruptFollowsEnableAndDone
  refine fun s => ⟨irq_iff s, fun hb hm => ?completion, fun w rest => ⟨fun ha hw hd => ?enable,
    fun ha hw => ?disable, fun ha hw => ?statusWrite, fun ha hb => ?start, fun ha hb => ?ignored,
    fun ha => ?reset⟩⟩
  case completion =>
    obtain ⟨r, n, hstep⟩ := step_of_busy_sequencerMoves hb hm
    exact ⟨_, hstep, irq_of_done rfl⟩
  case enable => exact ⟨_, step_of_ctrlWrite ha, (irq_iff _).2 ⟨hw, hd⟩⟩
  case disable => exact ⟨_, step_of_ctrlWrite ha, irq_of_not_ie hw, rfl⟩
  case statusWrite => exact step_lowers_irq w (.inr (.inl ⟨ha, hw⟩))
  case start => exact step_lowers_irq w (.inl ⟨ha, hb⟩)
  case ignored => exact ⟨_, step_of_cmdWrite_busy ha hb, rfl⟩
  case reset => exact step_lowers_irq w (.inr (.inr ha))

end Sys2Proof.Machine
end

section
/-! PROOFS. The reset event (spec/70_reset_and_hazards.md R210). -/

namespace Sys2Proof.Machine

/-- ID is a constant: its word reads the same in every state, so a reset cannot change it (R20, R22). -/
theorem readWord_id (s : State) : s.readWord 0x00 = 0x31515846#32 := readWord_regOffset s .id

/-- A reset lowers the interrupt output, because DONE is 0 after it (R190, R210). -/
theorem resetEvent_irq (s : State) : s.resetEvent.irq = false := irq_of_not_done s.resetEvent_done

/-- Settles O18: the reset event answers `resetEvent` whatever the state, and that gives each register its
reset value. -/
theorem resetEventClearsEveryRegister : Obligations.ResetEventClearsEveryRegister := by
  unfold Obligations.ResetEventClearsEveryRegister
  intro s rest ha
  refine ⟨_, step_of_reset ha, readWord_id _, ?registers⟩
  case registers =>
    simp only [State.resetEvent_ie, State.resetEvent_busy, State.resetEvent_done, State.resetEvent_ignored,
      State.resetEvent_errcode, State.resetEvent_scaleExp, State.resetEvent_iter, State.resetEvent_opa,
      State.resetEvent_opb, State.resetEvent_opc, State.resetEvent_res, resetEvent_irq, and_self]

end Sys2Proof.Machine
end

section
/-! PROOFS. Decode and encode agree (spec/30_encoding.md R80, R83). -/

namespace Sys2Proof

theorem decode_encode (i : Instr) : decode (encode i) = .ok i := by
  cases i with
  | add | sub | mul | div | sqrt | solve => rfl

/-- A row of the opcode map is the number of its command's full word, whose RSVD field is 0 (R83). -/
theorem toNat_encode_of_decodeOpcode {op : Nat} {i : Instr} (h : decodeOpcode op = .ok i) :
    (encode i).toNat = op := by
  unfold decodeOpcode at h
  split at h
  case h_7 => cases h -- no row: the map answers an error
  all_goals
    cases h
    rfl

/-- With RSVD 0 a word is its OPCODE field, read as a number (R80). -/
theorem toNat_opcodeField {w : Word} (h : rsvdField w = 0#24) : (opcodeField w).toNat = w.toNat := by
  have hhigh : w.toNat / 2 ^ 8 % 2 ^ 24 = 0 := by
    simpa [rsvdField, BitVec.extractLsb'_toNat, Nat.shiftRight_eq_div_pow] using congrArg BitVec.toNat h
  have hlow : (opcodeField w).toNat = w.toNat % 2 ^ 8 := by
    simp [opcodeField, BitVec.extractLsb'_toNat]
  have hlt : w.toNat < 2 ^ 32 := w.isLt
  omega

/-- A word the decoder accepts is the full word of the command it answers. -/
theorem encode_of_decode {w : Word} {i : Instr} (h : decode w = .ok i) : encode i = w := by
  obtain ⟨hrsvd, hop⟩ := decode_eq_ok.1 h
  exact BitVec.eq_of_toNat_eq ((toNat_encode_of_decodeOpcode hop).trans (toNat_opcodeField hrsvd))

/-- Settles O3: each command's word decodes to it, and an accepted word has RSVD 0 and its OPCODE in the
map. -/
theorem decodeEncodeRoundTrip : Obligations.DecodeEncodeRoundTrip :=
  ⟨fun i _ => decode_encode i, fun _ _ => encode_of_decode⟩

/-- Settles O1: the six words are those of the six commands. -/
theorem decodeReadsOpcodeMap : Obligations.DecodeReadsOpcodeMap :=
  ⟨decode_encode .add, decode_encode .sub, decode_encode .mul, decode_encode .div, decode_encode .sqrt,
    decode_encode .solve⟩

end Sys2Proof
end

section
/-! PROOFS. What a completion reports, and what every step keeps of it (spec/60_exceptions.md R181, R184;
spec/20_memory.md R59; spec/10_state.md R25, R28, R34). -/

namespace Sys2Proof.Machine

/-! ## The outcome of the latched command (R184) -/

/-- The case table of R184 at the word of `i` is the meaning of `i`. -/
theorem exec_eq_finish_latchedOutcome {s : State} {i : Instr} (h : s.lOp = encode i) :
    exec i s = .next (s.finish s.latchedOutcome.1 s.latchedOutcome.2) := by
  unfold State.latchedOutcome
  rw [h]
  cases i with
  | add | sub | mul | div | sqrt | solve => rfl

/-- `Complete` writes the outcome of the latched word, legal or not. -/
theorem complete_eq_finish_latchedOutcome (s : State) :
    s.complete = .next (s.finish s.latchedOutcome.1 s.latchedOutcome.2) := by
  by_cases hlegal : legal s.lOp = true
  · obtain ⟨i, hd⟩ := (exists_decode_eq_ok_iff_legal s.lOp).2 hlegal
    rw [State.complete, hd]
    exact exec_eq_finish_latchedOutcome (encode_of_decode hd).symm
  · rw [complete_of_not_legal hlegal, State.latchedOutcome, if_pos (Bool.eq_false_iff.2 hlegal),
      State.finishIllegal]

@[simp] theorem latchedOutcome_eventTaken (s : State) :
    s.eventTaken.latchedOutcome = s.latchedOutcome := rfl

/-- A completion leaves the latches, so also the outcome they give. -/
@[simp] theorem latchedOutcome_finish (s : State) (r : Result) (n : Nat) :
    (s.finish r n).latchedOutcome = s.latchedOutcome := rfl

/-- The sequencer's step while BUSY = 1 writes the outcome of the latches. -/
theorem step_of_completion {s : State} (hb : s.busy = true) (hm : s.sequencerMoves) :
    step s = .next (s.eventTaken.finish s.latchedOutcome.1 s.latchedOutcome.2) := by
  rw [step_of_sequencerMoves hm, State.sequencerTurn, eventTaken_busy, if_pos hb,
    complete_eq_finish_latchedOutcome, latchedOutcome_eventTaken]

theorem step_of_idle_sequencerMoves {s : State} (hb : s.busy = false) (hm : s.sequencerMoves) :
    step s = .next s.eventTaken := by
  rw [step_of_sequencerMoves hm, State.sequencerTurn, eventTaken_busy, hb, if_neg Bool.false_ne_true]

theorem finish_eq_completed (s : State) (r : Result) (n : Nat) :
    s.finish r n =
      s.completed (Result.resWord r) (Result.errcode r) (BitVec.ofNat 32 (min n (2 ^ 32 - 1))) := rfl

/-- Settles O26: the sequencer's turn is the one update of R184 while BUSY = 1, and nothing otherwise. -/
theorem completionIsTheLatchedOutcome : Obligations.CompletionIsTheLatchedOutcome := by
  unfold Obligations.CompletionIsTheLatchedOutcome
  refine fun s hm => ⟨fun hb => ?_, fun hb => step_of_idle_sequencerMoves hb hm,
    fun v => ⟨rfl, rfl⟩, fun e => ⟨rfl, rfl⟩⟩
  rw [step_of_completion hb hm, finish_eq_completed]

/-! ## Everything that can move a report (R24, R59, R184) -/

/-- `u` reports what `s` does about the same latched command; DONE may have been acknowledged. -/
structure State.keepsReport (s u : State) : Prop where
  busy : u.busy = s.busy
  done : u.done = true → s.done = true
  res : u.res = s.res
  errcode : u.errcode = s.errcode
  iter : u.iter = s.iter
  lOp : u.lOp = s.lOp
  lA : u.lA = s.lA
  lB : u.lB = s.lB
  lC : u.lC = s.lC

theorem State.keepsReport.trans {s t u : State} (hst : s.keepsReport t) (htu : t.keepsReport u) :
    s.keepsReport u where
  busy := htu.busy.trans hst.busy
  done := hst.done ∘ htu.done
  res := htu.res.trans hst.res
  errcode := htu.errcode.trans hst.errcode
  iter := htu.iter.trans hst.iter
  lOp := htu.lOp.trans hst.lOp
  lA := htu.lA.trans hst.lA
  lB := htu.lB.trans hst.lB
  lC := htu.lC.trans hst.lC

theorem keepsReport_refl (s : State) : s.keepsReport s := ⟨rfl, id, rfl, rfl, rfl, rfl, rfl, rfl, rfl⟩

theorem keepsReport_eventTaken (s : State) : s.keepsReport s.eventTaken :=
  ⟨rfl, id, rfl, rfl, rfl, rfl, rfl, rfl, rfl⟩

/-- Of all writes only a start reaches the report and the latches. -/
theorem writeReg_keepsReport (s : State) (w : Word) {r : Option RegName}
    (h : ¬ (r = some .cmd ∧ s.busy = false)) : s.keepsReport (s.writeReg w r) := by
  obtain ⟨hOp, hA, hB, hC⟩ := writeReg_latches s w r h
  refine ⟨?busy, ?done, writeReg_res s w r, ?errcode, writeReg_iter s w r, hOp, hA, hB, hC⟩
  case busy =>
    rw [writeReg_busy, Bool.or_eq_left_iff_imp, decide_eq_true_iff]
    exact fun hr => Bool.eq_true_of_not_eq_false fun hb => h ⟨hr, hb⟩
  case done =>
    rw [writeReg_done, Bool.and_eq_true, Bool.and_eq_true]
    exact fun ⟨⟨hd, _⟩, _⟩ => hd
  case errcode => rw [writeReg_errcode, if_neg h]

/-- The steps that can move a report: a completion, which writes the outcome of the latches, a reset and a
command start. -/
theorem step_report_cases {s u : State} (h : step s = .next u) :
    (s.busy = true ∧ s.sequencerMoves ∧
      u = s.eventTaken.finish s.latchedOutcome.1 s.latchedOutcome.2) ∨
    ((∃ rest, s.agenda = .reset :: rest) ∧ u = s.eventTaken.resetEvent) ∨
    (∃ w, (∃ rest, s.agenda = busWrite 0x08 w :: rest) ∧ s.busy = false ∧ u = s.eventTaken.start w) ∨
    s.keepsReport u := by
  rcases step_event_cases h with ⟨hm, hb, -⟩ | ⟨-, -, rfl⟩ | ⟨off, rest, -, -, -, rfl⟩ |
    ⟨off, w, rest, ha, h4, -, rfl⟩ | ⟨rest, ha, hu⟩
  · rw [step_of_completion hb hm, Host.Outcome.next.injEq] at h
    exact .inl ⟨hb, hm, h.symm⟩
  · exact .inr (.inr (.inr (keepsReport_eventTaken s)))
  · exact .inr (.inr (.inr ⟨rfl, id, rfl, rfl, rfl, rfl, rfl, rfl, rfl⟩))
  · by_cases hstart : regAt off = some .cmd ∧ s.busy = false
    · obtain ⟨hc, hb⟩ := hstart
      obtain rfl : off = 0x08 := regOffset_of_regAt h4 hc
      rw [step_of_cmdWrite_idle ha hb, Host.Outcome.next.injEq] at h
      exact .inr (.inr (.inl ⟨w, ⟨rest, ha⟩, hb, h.symm⟩))
    · exact .inr (.inr (.inr ((keepsReport_eventTaken s).trans
        (writeReg_keepsReport s.eventTaken w hstart))))
  · exact .inr (.inl ⟨⟨rest, ha⟩, hu⟩)

/-- Settles O16: a start moves ERRCODE only, and every other step outside the two keeps the report. -/
theorem resultChangesOnlyAtCompletionOrReset : Obligations.ResultChangesOnlyAtCompletionOrReset := by
  unfold Obligations.ResultChangesOnlyAtCompletionOrReset
  intro s u h
  rcases step_report_cases h with ⟨hb, hm, rfl⟩ | ⟨ha, -⟩ | ⟨w, ha, hb, rfl⟩ | hkeep
  case inl =>
    exact ⟨fun _ => .inl ⟨hb, rfl, hm⟩, fun _ => .inl ⟨hb, rfl, hm⟩⟩
  case inr.inl =>
    exact ⟨fun _ => .inr ha, fun _ => .inr (.inl ha)⟩
  case inr.inr.inl =>
    exact ⟨fun hne => absurd hne (by simp), fun _ => .inr (.inr ⟨hb, rfl, w, ha⟩)⟩
  case inr.inr.inr =>
    exact ⟨fun hne => absurd hne (by simp [hkeep.res, hkeep.iter]), fun hne => absurd hkeep.errcode hne⟩

/-! ## The register invariant (R25, R28, R34, R181) -/

theorem errcode_le_six (r : Result) : (Result.errcode r).toNat ≤ 6 := by
  rcases r with e | v
  · cases e <;> decide
  · exact Nat.zero_le _

theorem resWord_of_errcode_ne_zero {r : Result} (h : Result.errcode r ≠ 0#4) :
    Result.resWord r = 0#256 := by
  cases r with
  | error e => rfl
  | ok v => exact absurd rfl h

theorem registersLegal_finish (s : State) (r : Result) (n : Nat) : (s.finish r n).registersLegal :=
  ⟨by simp, errcode_le_six r, by simp, resWord_of_errcode_ne_zero⟩

theorem registersLegal_resetEvent (s : State) : s.resetEvent.registersLegal := by
  simp [State.registersLegal]

theorem registersLegal_start (s : State) (w : Word) : (s.start w).registersLegal := by
  simp [State.registersLegal]

theorem registersLegal_of_keepsReport {s u : State} (hs : s.registersLegal) (h : s.keepsReport u) :
    u.registersLegal := by
  obtain ⟨hflags, hcode, hrunning, hres⟩ := hs
  unfold State.registersLegal
  rw [h.busy, h.errcode, h.res]
  exact ⟨fun ⟨hb, hd⟩ => hflags ⟨hb, h.done hd⟩, hcode, hrunning, hres⟩

/-- Settles O21: a completion, a reset and a start each give a legal register file, and every other step
keeps the report. -/
theorem stepKeepsRegistersLegal : Obligations.StepKeepsRegistersLegal := by
  unfold Obligations.StepKeepsRegistersLegal
  intro s u hs h
  rcases step_report_cases h with ⟨-, -, rfl⟩ | ⟨-, rfl⟩ | ⟨w, -, -, rfl⟩ | hkeep
  · exact registersLegal_finish _ _ _
  · exact registersLegal_resetEvent _
  · exact registersLegal_start _ w
  · exact registersLegal_of_keepsReport hs hkeep

/-! ## The report invariant (R59, R184) -/

/-- With DONE = 0 there is no report to be true of. -/
theorem reportHonest_of_not_done {s : State} (h : s.done = false) : s.reportHonest :=
  fun hd => absurd hd (by simp [h])

theorem State.keepsReport.latchedOutcome {s u : State} (h : s.keepsReport u) :
    u.latchedOutcome = s.latchedOutcome := by
  unfold State.latchedOutcome
  rw [h.lOp, h.lA, h.lB, h.lC]

theorem reportHonest_of_keepsReport {s u : State} (hs : s.reportHonest) (h : s.keepsReport u) :
    u.reportHonest := by
  intro hd
  rw [h.res, h.errcode, h.iter, h.latchedOutcome]
  exact hs (h.done hd)

/-- Writing the outcome of the latches makes the report true, since a completion leaves the latches. -/
theorem reportHonest_finish (s : State) :
    (s.finish s.latchedOutcome.1 s.latchedOutcome.2).reportHonest := by
  intro _
  rw [latchedOutcome_finish]
  exact ⟨rfl, rfl, rfl⟩

/-- Settles O22: a completion reports the outcome of its own latches, a reset and a start clear DONE, and
every other step keeps the report. -/
theorem stepKeepsReportHonest : Obligations.StepKeepsReportHonest := by
  unfold Obligations.StepKeepsReportHonest
  intro s u hs h
  rcases step_report_cases h with ⟨-, -, rfl⟩ | ⟨-, rfl⟩ | ⟨w, -, -, rfl⟩ | hkeep
  · exact reportHonest_finish s.eventTaken
  · exact reportHonest_of_not_done rfl
  · exact reportHonest_of_not_done rfl
  · exact reportHonest_of_keepsReport hs hkeep

/-- Settles O23: the reset state is the outcome of a reset event on itself. -/
theorem resetIsLegalAndHonest : Obligations.ResetIsLegalAndHonest :=
  ⟨registersLegal_resetEvent State.reset, reportHonest_of_not_done rfl⟩

/-- Settles O27: the codes of R180. -/
theorem errorKindsHaveTheirCodes : Obligations.ErrorKindsHaveTheirCodes := by
  unfold Obligations.ErrorKindsHaveTheirCodes
  exact ⟨rfl, rfl, rfl, rfl, rfl, rfl⟩

end Sys2Proof.Machine
end

section
/-! PROOFS. Runs and single steps of the sequencer and the host (spec/20_memory.md R57, R59;
spec/60_exceptions.md R184; spec/70_reset_and_hazards.md R210, R212, R220). -/

namespace Sys2Proof.Machine

/-! ## Every step uses up its event (R59) -/

theorem step_agenda {s u : State} (h : step s = .next u) : u.agenda = s.agenda.tail := by
  rcases step_event_cases h with ⟨-, -, r, n, rfl⟩ | ⟨-, -, rfl⟩ | ⟨off, rest, -, -, -, rfl⟩ |
    ⟨off, w, rest, -, -, -, rfl⟩ | ⟨rest, -, rfl⟩
  · rfl
  · rfl
  · rfl
  · exact writeReg_agenda _ w (regAt off)
  · rfl

/-! ## The interface (R55, R212) -/

/-- A well-formed transfer at the head of the agenda is accepted. -/
theorem step_of_wf_transfer {s : State} {t : Transfer} {rest : List Event}
    (ha : s.agenda = .host t :: rest) (ht : t.wf = true) : ∃ u, step s = .next u := by
  rw [step_of_cons ha]
  obtain ⟨off, -, -, -, hacc⟩ := transfer_of_wf { s with agenda := rest } ht
  exact ⟨_, hacc⟩

/-- The sequencer's turn always answers a next state, idle or not (log entry 14). -/
theorem step_of_sequencerMoves_next {s : State} (hm : s.sequencerMoves) : ∃ u, step s = .next u := by
  cases hb : s.busy with
  | true => exact ⟨_, step_of_completion hb hm⟩
  | false => exact ⟨_, step_of_idle_sequencerMoves hb hm⟩

/-- An acceptable agenda lets the next step happen. -/
theorem step_of_agendaWf {s : State} (h : s.agendaWf = true) : ∃ u, step s = .next u := by
  cases ha : s.agenda with
  | nil => exact step_of_sequencerMoves_next (.inl ha)
  | cons e rest =>
    have he : e.wf = true := List.all_eq_true.1 h e (by simp [ha])
    cases e with
    | host t => exact step_of_wf_transfer ha he
    | sequencer => exact step_of_sequencerMoves_next (.inr ⟨rest, ha⟩)
    | reset => exact ⟨_, step_of_reset ha⟩
    | hostInReset t => cases he

theorem agendaWf_of_step {s u : State} (h : s.agendaWf = true) (hstep : step s = .next u) :
    u.agendaWf = true := by
  rw [State.agendaWf, step_agenda hstep]
  exact List.all_eq_true.2 fun e he => List.all_eq_true.1 h e (List.mem_of_mem_tail he)

/-- Settles O10, by induction on the number of steps. -/
theorem acceptableAgendaNeverStops : Obligations.AcceptableAgendaNeverStops := by
  unfold Obligations.AcceptableAgendaNeverStops
  intro k
  induction k with
  | zero => exact fun s h => ⟨s, run_zero s, h⟩
  | succ k ih =>
    intro s h
    obtain ⟨t, hstep⟩ := step_of_agendaWf h
    rw [run_succ_of_next hstep]
    exact ih t (agendaWf_of_step h hstep)

/-- Settles O9: the model refuses the transfer by its name, and a reset keeps the later events. -/
theorem transferWhileResetAssertedIsRefused : Obligations.TransferWhileResetAssertedIsRefused := by
  unfold Obligations.TransferWhileResetAssertedIsRefused
  refine fun s t rest => ⟨fun ha => ⟨.transferInReset t.addr, ?_⟩, fun ha => ⟨_, step_of_reset ha, rfl⟩⟩
  rw [step_of_cons ha, State.handle]

/-- Settles O19: a reset event clears the block's registers only. -/
theorem resetLeavesTheHostAsItWas : Obligations.ResetLeavesTheHostAsItWas := by
  unfold Obligations.ResetLeavesTheHostAsItWas
  exact fun s rest ha => ⟨_, step_of_reset ha, rfl, rfl⟩

/-! ## Repeated writes (R57) -/

theorem setWord_setWord_same (r : Wide) (k : Nat) (w : Word) :
    setWord (setWord r k w) k w = setWord r k w := by
  ext i hi
  simp only [← BitVec.getLsbD_eq_getElem, getLsbD_setWord, hi, decide_true, Bool.true_and]
  split <;> rfl

theorem writeStatus_writeStatus (s : State) (w : Word) :
    (s.writeStatus w).writeStatus w = s.writeStatus w := by
  simp only [State.writeStatus, Bool.and_assoc, Bool.and_self]

/-- A second write of the word to the same register, CMD apart, changes nothing more. -/
theorem writeReg_writeReg (s : State) (w : Word) {r : Option RegName} (h : r ≠ some .cmd) :
    (s.writeReg w r).writeReg w r = s.writeReg w r := by
  rcases writeReg_cases s w r with hw | ⟨rfl, hw⟩ | ⟨hc, -⟩ | ⟨hc, -⟩ | ⟨rfl, hw⟩ | ⟨rfl, hw⟩ |
    ⟨k, rfl, hw⟩ | ⟨k, rfl, hw⟩ | ⟨k, rfl, hw⟩
  · rw [hw, hw]
  · rfl
  · exact absurd hc h
  · exact absurd hc h
  · exact writeStatus_writeStatus s w
  · rfl
  all_goals simp only [State.writeReg, setWord_setWord_same]

/-- Settles O12: 0x08 is the only aligned offset whose word is CMD. -/
theorem writesExceptCommandAreIdempotent : Obligations.WritesExceptCommandAreIdempotent := by
  unfold Obligations.WritesExceptCommandAreIdempotent
  intro s off w h4 _ hne
  exact writeReg_writeReg s w fun hc => hne (regOffset_of_regAt h4 hc)

/-! ## A running command and the host (R24, R59, R220) -/

/-- While BUSY = 1 a well-formed transfer is one step that reaches neither the running command nor what
will be reported of it. -/
theorem step_of_transfer_busy {s : State} {t : Transfer} {rest : List Event}
    (ha : s.agenda = .host t :: rest) (ht : t.wf = true) (hb : s.busy = true) :
    ∃ u, step s = .next u ∧ u.agenda = rest ∧ s.keepsReport u := by
  obtain ⟨u, hstep⟩ := step_of_wf_transfer ha ht
  refine ⟨u, hstep, by rw [step_agenda hstep, ha, List.tail_cons], ?_⟩
  rcases step_report_cases hstep with ⟨-, hm, -⟩ | ⟨⟨rest', ha'⟩, -⟩ | ⟨w, -, hidle, -⟩ | hkeep
  · simp [State.sequencerMoves, ha] at hm
  · simp [ha] at ha'
  · simp [hb] at hidle
  · exact hkeep

/-- A list of such transfers, one step each, reaches them no more than one does. -/
theorem run_transfers_busy {ts : List Transfer} {s : State} {rest : List Event}
    (hts : ∀ t ∈ ts, t.wf = true) (hb : s.busy = true) (ha : s.agenda = ts.map Event.host ++ rest) :
    ∃ u, (∀ k, Sys2Proof.core.run (ts.length + k) s = Sys2Proof.core.run k u) ∧ u.agenda = rest ∧
      s.keepsReport u := by
  induction ts generalizing s with
  | nil => exact ⟨s, fun k => by rw [List.length_nil, Nat.zero_add], ha, keepsReport_refl s⟩
  | cons t ts ih =>
    obtain ⟨ht, hts⟩ := List.forall_mem_cons.1 hts
    obtain ⟨u, hstep, hagenda, hkeep⟩ := step_of_transfer_busy ha ht hb
    obtain ⟨v, hrun, hrest, hkeep'⟩ := ih hts (hkeep.busy.trans hb) hagenda
    refine ⟨v, fun k => ?_, hrest, hkeep.trans hkeep'⟩
    rw [List.length_cons, Nat.add_right_comm, run_succ_of_next hstep, hrun]

theorem run_one_of_next {s u : State} (h : step s = .next u) : Sys2Proof.core.run 1 s = .next u := by
  rw [run_succ_of_next h, run_zero]

/-- Settles O29: the start latches the word and the operands, no transfer reaches the latches while BUSY = 1,
and the sequencer's turn reports their outcome. -/
theorem hostTransfersCannotChangeRunningCommand :
    Obligations.HostTransfersCannotChangeRunningCommand := by
  unfold Obligations.HostTransfersCannotChangeRunningCommand
  intro s w ts rest hidle hts ha
  have hstart := step_of_cmdWrite_idle ha hidle
  have hagenda : (s.eventTaken.start w).agenda = ts.map Event.host ++ .sequencer :: rest := by
    rw [step_agenda hstart, ha, List.tail_cons]
  obtain ⟨t, hrun, hrest, hkeep⟩ := run_transfers_busy hts rfl hagenda
  have hlast := step_of_completion hkeep.busy (.inr ⟨rest, hrest⟩)
  have houtcome : t.latchedOutcome = (s.started w).latchedOutcome := hkeep.latchedOutcome
  refine ⟨t.eventTaken.finish t.latchedOutcome.1 t.latchedOutcome.2, ?run, ?agenda, rfl, rfl, ?res,
    ?errcode, ?iter⟩
  case run => rw [Nat.add_succ, run_succ_of_next hstart, hrun, run_one_of_next hlast]
  case agenda => rw [step_agenda hlast, hrest, List.tail_cons]
  case res => rw [State.finish_res, houtcome]
  case errcode => rw [State.finish_errcode, houtcome]
  case iter => rw [State.finish_iter, houtcome, iterWord, Config.iterMax]

/-- While only transfers come, a running command keeps running on its latches, so that at the latest when
no event is left the sequencer has its turn on it. -/
theorem exists_run_to_sequencerMoves {es : List Event} {s : State} (hes : s.agenda = es)
    (hb : s.busy = true) (hwf : s.agendaWf = true) (hreset : .reset ∉ es) :
    ∃ k t, k ≤ es.length ∧ Sys2Proof.core.run k s = .next t ∧ s.keepsReport t ∧ t.sequencerMoves := by
  induction es generalizing s with
  | nil => exact ⟨0, s, le_rfl, run_zero s, keepsReport_refl s, .inl hes⟩
  | cons e rest ih =>
    have he : e.wf = true := List.all_eq_true.1 hwf e (by simp [hes])
    cases e with
    | sequencer => exact ⟨0, s, Nat.zero_le _, run_zero s, keepsReport_refl s, .inr ⟨rest, hes⟩⟩
    | reset => exact absurd List.mem_cons_self hreset
    | hostInReset t => cases he
    | host t =>
      obtain ⟨u, hstep, hagenda, hkeep⟩ := step_of_transfer_busy hes he hb
      obtain ⟨k, v, hk, hrun, hkeep', hm⟩ := ih hagenda (hkeep.busy.trans hb) (agendaWf_of_step hwf hstep)
        fun hmem => hreset (List.mem_cons_of_mem _ hmem)
      exact ⟨k + 1, v, Nat.succ_le_succ hk, (run_succ_of_next hstep).trans hrun, hkeep.trans hkeep', hm⟩

/-- Settles O30: when the sequencer has its turn the command is still running, so its step completes it. -/
theorem everyStartedCommandCompletes : Obligations.EveryStartedCommandCompletes := by
  unfold Obligations.EveryStartedCommandCompletes
  intro s hb hwf hreset
  obtain ⟨k, t, hk, hrun, hkeep, hm⟩ := exists_run_to_sequencerMoves rfl hb hwf hreset
  have hbt : t.busy = true := hkeep.busy.trans hb
  exact ⟨k, t, _, hk, hrun, hbt, hkeep.lOp, hkeep.lA, hkeep.lB, hkeep.lC, step_of_completion hbt hm, rfl,
    rfl⟩

/-! ## Placed and latched commands (R24, R184) -/

/-- Settles O24: the sequencer's turn is `Complete`, whose case on the decoded word is `exec`. -/
theorem stepRunsTheLatchedCommand : Obligations.StepRunsTheLatchedCommand := by
  unfold Obligations.StepRunsTheLatchedCommand
  intro s i hb hm hd _
  rw [step_of_sequencerMoves hm, State.sequencerTurn, eventTaken_busy, if_pos hb, State.complete,
    eventTaken_lOp, hd]

theorem sequencerMoves_of_sequencerNext {s : State} {es : List Event} (h : s.agenda = sequencerNext es) :
    s.sequencerMoves := by
  cases es with
  | nil => exact .inl h
  | cons e rest => exact .inr ⟨_, h⟩

theorem tail_sequencerNext (es : List Event) : (sequencerNext es).tail = es := by
  cases es with
  | nil => rfl
  | cons e rest => rfl

theorem tableWord_encode (i : Instr) : tableWord 32 (encode i).toNat = encode i := by
  cases i with
  | add | sub | mul | div | sqrt | solve => rfl

/-- Settles O25: the placed word is latched with BUSY = 1 and the sequencer next to move. -/
theorem fetchWordIsRunByTheNextStep : Obligations.FetchWordIsRunByTheNextStep := by
  unfold Obligations.FetchWordIsRunByTheNextStep
  intro s i hi
  have htaken : (s.withFetchWord 32 (encode i).toNat).eventTaken = s.started (encode i) := by
    rw [State.withFetchWord, State.loadCommand, tableWord_encode, State.eventTaken, tail_sequencerNext]
    rfl
  have hword : decode (tableWord 32 (encode i).toNat) = .ok i := by rw [tableWord_encode, decode_encode]
  rw [← htaken]
  exact stepRunsTheLatchedCommand _ i rfl (sequencerMoves_of_sequencerNext rfl) hword hi

end Sys2Proof.Machine
end

section
/-! PROOFS. What the square root and the SOLVE pipeline can end with (spec/41_sqrt.md R135, R137, R139, R140;
spec/42_solve.md R165; spec/95_test_vectors.md L1). -/

namespace Sys2Proof.Machine

/-! ## The square root -/

/-- Settles O46: a negative operand raises NegativeSquareRoot, any other at most Overflow. -/
theorem sqrtNeverDividesByZero : Obligations.SqrtNeverDividesByZero := by
  unfold Obligations.SqrtNeverDividesByZero
  intro value h
  by_cases hneg : value < 0
  · rw [sqrt_neg hneg] at h
    cases h
  · have hsqrt : sqrt value = (.error .divisionByZero, (sqrt value).2) := Prod.ext h rfl
    cases overflow_of_sqrt_error (not_lt.1 hneg) hsqrt

/-- From `4·SCALE` up the seed lies above the true root: `value·SCALE ≤ value² / 4 < seed²` (R139). -/
theorem mul_scale_lt_seed_sq {value : Int} (hv : 4 * 10 ^ 27 ≤ value) :
    value * 10 ^ 27 < seed value * seed value := by
  have hseed : value < 2 * seed value := by
    unfold seed
    omega
  have hsq : value * value < (2 * seed value) * (2 * seed value) :=
    mul_self_lt_mul_self (by omega) hseed
  have hscale : 4 * 10 ^ 27 * value ≤ value * value := mul_le_mul_of_nonneg_right hv (by omega)
  linarith only [hsq, hscale]

/-- Settles O48: `N(x₀) ≤ (x₀² + value·SCALE) / 2x₀`, which is below `x₀` when `value·SCALE < x₀²`. -/
theorem firstNewtonStepDescends : Obligations.FirstNewtonStepDescends := by
  unfold Obligations.FirstNewtonStepDescends
  intro value x hv hstep
  have hv1 : 1 ≤ value := le_trans (by decide) hv
  have hx0 : 1 ≤ seed value := one_le_seed hv1
  obtain ⟨-, rfl⟩ := fits_of_newtonStep_ok hv1 hx0 hstep
  refine lt_of_mul_lt_mul_right ?_ (by omega : 0 ≤ 2 * seed value)
  linarith only [newtonNext_mul_le (value := value) hx0, mul_scale_lt_seed_sq hv]

/-- From 0 to V_MAX the square root raises nothing (R130, R140). -/
theorem exists_sqrt_eq_ok {value : Int} (hv : 0 ≤ value) (hmax : value ≤ sqrtMax) :
    ∃ r n, sqrt value = (.ok r, n) := by
  rcases hv.eq_or_lt with rfl | hpos
  · exact ⟨0, 0, sqrt_zero⟩
  · obtain ⟨r, hr⟩ := sqrt_ok_of_le_sqrtMax hpos hmax
    exact ⟨r, _, Prod.ext hr rfl⟩

/-- Settles O50: below 0 the operand check decides, up to V_MAX no step raises, and above it the first one
does. -/
theorem sqrtCommandCompletes : Obligations.SqrtCommandCompletes := by
  unfold Obligations.SqrtCommandCompletes
  obtain ⟨-, -, hneg, -⟩ := sqrtChecksItsOperandFirst
  refine fun s => ⟨hneg s, fun hnn hmax => ?_, fun hmax => ?_⟩
  · obtain ⟨r, n, hsqrt⟩ := exists_sqrt_eq_ok hnn hmax
    refine ⟨r, n, hsqrt, sqrt_ok_nonneg hnn hsqrt, (sqrtIsAtMostTheTrueRoot _ _ _ hsqrt).1, ?_⟩
    rw [exec_sqrt, hsqrt, finish_ok_steps]
  · rw [exec_sqrt, sqrt_overflow_of_gt_sqrtMax hmax, finish_error_steps, ErrorKind.code]
    rfl

/-! ## The SOLVE pipeline -/

/-- Steps 4 to 8 on a 128-bit `b` and a small root never overflow: `a = 0` raises DivisionByZero, a negative
larger root NegativeRoot. -/
theorem largerRoot_ne_overflow {a b sd : Int} (hb : coefRange b) (hnn : 0 ≤ sd) (hlt : sd < 2 ^ 129) :
    largerRoot a b sd ≠ .error .overflow := by
  by_cases ha : a = 0
  · rw [ha, largerRoot_zero (sub_neg_sqrt hb hnn hlt)]
    decide
  · rw [largerRoot_of_ne_zero ha hb hnn hlt rfl rfl]
    split <;> nofun

/-- No stage of the pipeline overflows on 128-bit coefficients (R165). -/
theorem solve_ne_overflow {a b c : Int} (ha : coefRange a) (hb : coefRange b) (hc : coefRange c) :
    (solve a b c).1 ≠ .error .overflow := by
  by_cases hneg : scaledDiscriminant a b c < 0
  · rw [solve_of_discriminant_neg (discriminant_of_coefRange ha hb hc) hneg]
    decide
  · obtain ⟨sd, n, -, hnn, hlt, hsolve⟩ := solve_of_coefRange ha hb hc (not_lt.1 hneg)
    rw [hsolve]
    exact largerRoot_ne_overflow hb hnn hlt

/-- Settles O51: of everything `solve` can raise, Overflow is ruled out by the size of the coefficients. -/
theorem solveRaisesOnlyItsThreeErrors : Obligations.SolveRaisesOnlyItsThreeErrors := by
  unfold Obligations.SolveRaisesOnlyItsThreeErrors
  intro a b c e ha hb hc h
  rcases solve_error_cases h with ⟨rfl, -⟩ | rfl | rfl | rfl
  · exact .inl rfl
  · exact .inr (.inl rfl)
  · exact absurd h (solve_ne_overflow ha hb hc)
  · exact .inr (.inr rfl)

/-- Settles O57: the four examples of L1, each by running the model. -/
theorem sourceExamplesComeOutAsStated : Obligations.SourceExamplesComeOutAsStated := by
  unfold Obligations.SourceExamplesComeOutAsStated
  exact ⟨by decide, by decide, by decide, by decide⟩

end Sys2Proof.Machine
end

section
/-! PROOFS. Host programs (spec/30_encoding.md R86, R87): `ld256`, `rd256` and `go` as runs of the machine. -/

namespace Sys2Proof.Machine

/-! ## One statement is one step (R86) -/

theorem regOffset_aligned (r : RegName) : regOffset r % 4 = 0 := by
  cases r with
  | id | ctrl | cmd | status | scaleExp | iter => rfl
  | opa k | opb k | opc k | res k => simp only [regOffset]; omega

theorem regOffset_lt (r : RegName) : regOffset r < 256 := by
  cases r with
  | id | ctrl | cmd | status | scaleExp | iter => decide
  | opa k | opb k | opc k | res k => simp only [regOffset]; omega

theorem step_of_wrReg {s : State} {r : RegName} {w : Word} {rest : List Event}
    (ha : s.agenda = .host (stmtTransfer (wrReg r w)) :: rest) :
    step s = .next (State.writeReg { s with agenda := rest } w (some r)) := by
  rw [step_of_busWrite ha (regOffset_aligned r) (regOffset_lt r), writeWord_regOffset]

theorem step_of_rdReg {s : State} {r : RegName} {rest : List Event}
    (ha : s.agenda = .host (stmtTransfer (rdReg r)) :: rest) :
    step s = .next { s with agenda := rest, received := s.received ++ [s.readReg (some r)] } := by
  rw [step_of_busRead ha (regOffset_aligned r) (regOffset_lt r), readWord_regOffset]

/-! ## A register filled word by word (R21, R87) -/

/-- `r` with the words of `v` whose numbers are listed. -/
def copyWords (v r : Wide) (ks : List (Fin 8)) : Wide :=
  ks.foldl (fun acc k => setWord acc k.val (getWord v k.val)) r

theorem getWord_copyWords (v r : Wide) (ks : List (Fin 8)) (j : Fin 8) :
    getWord (copyWords v r ks) j.val = if j ∈ ks then getWord v j.val else getWord r j.val := by
  induction ks generalizing r with
  | nil => rfl
  | cons k ks ih =>
    rw [copyWords, List.foldl_cons, ← copyWords, ih]
    by_cases hjk : j = k
    · subst hjk
      rw [getWord_setWord_same r _ _ j.isLt, ite_self, if_pos List.mem_cons_self]
    · rw [getWord_setWord_ne r _ _ _ j.isLt (Fin.val_ne_of_ne hjk)]
      simp only [List.mem_cons, hjk, false_or]

/-- All eight words together are the register. -/
theorem copyWords_finRange (v r : Wide) : copyWords v r (List.finRange 8) = v := by
  refine eq_of_getWord_eq fun k hk => ?_
  rw [getWord_copyWords v r _ ⟨k, hk⟩, if_pos (List.mem_finRange _)]

/-! ## `ld256` (R87) -/

/-- The operand register a program names. -/
def State.operand (s : State) : OperandReg → Wide
  | .opa => s.opa
  | .opb => s.opb
  | .opc => s.opc

/-- The state with another value in that register. -/
def State.putOperand (s : State) (r : OperandReg) (v : Wide) : State :=
  match r with
  | .opa => { s with opa := v }
  | .opb => { s with opb := v }
  | .opc => { s with opc := v }

theorem putOperand_operand (s : State) (r : OperandReg) : s.putOperand r (s.operand r) = s := by
  cases r with
  | opa | opb | opc => rfl

theorem operand_putOperand (s : State) (r : OperandReg) (v : Wide) : (s.putOperand r v).operand r = v := by
  cases r with
  | opa | opb | opc => rfl

/-- The later of two values in the register counts, and neither touches the events to come. -/
theorem putOperand_putOperand (s : State) (r : OperandReg) (v q : Wide) (es : List Event) :
    State.putOperand { s.putOperand r v with agenda := es } r q =
      State.putOperand { s with agenda := es } r q := by
  cases r with
  | opa | opb | opc => rfl

theorem putOperand_agenda (s : State) (r : OperandReg) (v : Wide) :
    (s.putOperand r v).agenda = s.agenda := by
  cases r with
  | opa | opb | opc => rfl

theorem writeReg_operandWord (s : State) (r : OperandReg) (k : Fin 8) (w : Word) :
    s.writeReg w (some (operandWord r k)) = s.putOperand r (setWord (s.operand r) k.val w) := by
  cases r with
  | opa | opb | opc => rfl

/-- Writes of the listed words of `v`, one step each, copy them into the register. -/
theorem run_writeWords (r : OperandReg) (v : Wide) {ks : List (Fin 8)} {s : State} {rest : List Event}
    (ha : s.agenda =
      stmtEvents (ks.map fun k => wrReg (operandWord r k) (getWord v k.val)) ++ rest) :
    Sys2Proof.core.run ks.length s =
      .next (State.putOperand { s with agenda := rest } r (copyWords v (s.operand r) ks)) := by
  induction ks generalizing s with
  | nil =>
    obtain rfl : s.agenda = rest := ha
    exact (run_zero s).trans (congrArg _ (putOperand_operand s r).symm)
  | cons k ks ih =>
    rw [List.length_cons, run_succ_of_next (step_of_wrReg ha), writeReg_operandWord,
      ih (putOperand_agenda _ r _), operand_putOperand, putOperand_putOperand]
    cases r with
    | opa | opb | opc => rfl

/-- `ld256` leaves the pattern of its value in the register it names, and every other register as it was. -/
theorem run_load256 {r : OperandReg} {v : Int} {s : State} {rest : List Event}
    (ha : s.agenda = stmtEvents (load256 r v) ++ rest) :
    Sys2Proof.core.run 8 s = .next (State.putOperand { s with agenda := rest } r (enc v)) := by
  rw [← copyWords_finRange (enc v) (s.operand r)]
  exact run_writeWords r (enc v) (ks := List.finRange 8) ha

/-- Settles O58: the eight writes of `ld256` at each of the three operand registers. -/
theorem load256FillsTheRegister : Obligations.Load256FillsTheRegister := by
  unfold Obligations.Load256FillsTheRegister
  exact fun s v rest _ => ⟨run_load256 (r := .opa), run_load256 (r := .opb), run_load256 (r := .opc)⟩

/-! ## `rd256` (R87) -/

/-- The events to come and the words already read play no part in what a register reads as. -/
theorem readReg_of_host (s : State) (es : List Event) (ws : List Word) (r : Option RegName) :
    State.readReg { s with agenda := es, received := ws } r = s.readReg r := by
  rcases r with _ | r
  · rfl
  · cases r <;> rfl

/-- Reads of the listed register words, one step each, append their values to what the host holds. -/
theorem run_readWords {rs : List RegName} {s : State} {rest : List Event}
    (ha : s.agenda = stmtEvents (rs.map rdReg) ++ rest) :
    Sys2Proof.core.run rs.length s =
      .next { s with agenda := rest, received := s.received ++ rs.map fun r => s.readReg (some r) } := by
  induction rs generalizing s with
  | nil =>
    obtain rfl : s.agenda = rest := ha
    exact (run_zero s).trans (by rw [List.map_nil, List.append_nil])
  | cons r rs ih =>
    rw [List.length_cons, run_succ_of_next (step_of_rdReg ha), ih rfl]
    simp [readReg_of_host]

/-- The eight words of a register, word 0 first, give the register back. -/
theorem wideOfWords_getWord (r : Wide) :
    wideOfWords ((List.finRange 8).map fun k => getWord r k.val) = r :=
  copyWords_finRange r 0#256

/-- Settles O59: the eight words read are those of RES, and together they are RES. -/
theorem read256ReturnsTheResult : Obligations.Read256ReturnsTheResult := by
  unfold Obligations.Read256ReturnsTheResult
  intro s rest ha
  refine ⟨(List.finRange 8).map fun k => getWord s.res k.val, rfl, ?_, ?_⟩
  · rw [rd256Value, wideOfWords_getWord, val]
  · exact run_readWords (rs := (List.finRange 8).map .res) ha

/-! ## `go` (R87) -/

/-- Every command completes, so a run of one step is that step. -/
theorem run_one_of_exec {s t : State} {i : Instr} (h : step s = exec i t) :
    Sys2Proof.core.run 1 s = exec i t := by
  obtain ⟨r, n, hexec⟩ := exec_cases i t
  rw [hexec] at h ⊢
  exact run_one_of_next h

/-- Settles O60: the CMD write starts the command's word, and the sequencer's turn runs it. -/
theorem goCommandRunsOnOperandRegisters : Obligations.GoCommandRunsOnOperandRegisters := by
  unfold Obligations.GoCommandRunsOnOperandRegisters
  intro s i rest hi hidle ha
  have hstart := step_of_cmdWrite_idle ha hidle
  have hagenda : (s.eventTaken.start (encode i)).agenda = .sequencer :: rest := by
    rw [step_agenda hstart, ha]
    rfl
  have htaken : (s.eventTaken.start (encode i)).eventTaken =
      State.started { s with agenda := rest } (encode i) := eventTaken_of_cons hagenda
  rw [run_succ_of_next hstart, ← htaken]
  exact run_one_of_exec (stepRunsTheLatchedCommand _ i rfl (.inr ⟨rest, hagenda⟩) (decode_encode i) hi)

end Sys2Proof.Machine
end
